-- ==== Sys2Proof/Word.lean ====
section
/-!
DEFINITION. The word types of the machine: bytes, instruction words, register numbers.
Register-wide words are `BitVec n` with n = XLEN (00_scope.md R6), fixed by the state (Machine/State.lean).
-/
namespace Sys2Proof

/-- One byte of memory (20_memory.md R41). -/
abbrev Byte := BitVec 8

/-- One 32-bit instruction word (30_encoding.md R60). -/
abbrev InstrWord := BitVec 32

/-- A register number: the value of a 5-bit field rd, rs1, rs2 or rs3 (10_state.md R21, 30_encoding.md R62). -/
abbrev Reg := Fin 32

end Sys2Proof
end

