-- ==== Sys2Proof/Machine/Flags.lean ====
section
/-!
DEFINITION. The machine has no flags, condition codes, carry or predicate bits (10_state.md R24), so there is no flag
computation. What a flag would decide elsewhere is a comparison of two register values; those stand here
(00_scope.md section 7: `signed_W`, `unsigned`).
-/
namespace Sys2Proof.Machine

/-- `signed(a) < signed(b)`, two's complement. -/
def lessSigned {n : Nat} (a b : BitVec n) : Bool := decide (a.toInt < b.toInt)

/-- `unsigned(a) < unsigned(b)`. -/
def lessUnsigned {n : Nat} (a b : BitVec n) : Bool := decide (a.toNat < b.toNat)

end Sys2Proof.Machine
end

