-- ==== Sys2Proof/Config.lean ====
section
/-!
DEFINITION. The parameters an implementation fixes: XLEN, EXTS (00_scope.md R12), the reset values the spec leaves
open (10_state.md R31, 92_eei_decisions.md D12), and BEXT_ASM, which only an assembler reads (R12, R357).
XLEN and EXTS are launch parameters (70_reset_and_hazards.md R451), so State carries them; this file says what they are.
The spec leaves no result of any instruction open (R12, R424), so no opaque free value stands here.
-/
namespace Sys2Proof

/-- XLEN, the width of an integer register: 32 or 64 (00_scope.md R6; RV128 is out of scope). -/
inductive Xlen where
  | rv32
  | rv64
  deriving DecidableEq, Repr

/-- XLEN as a number of bits. -/
abbrev Xlen.bits : Xlen → Nat
  | .rv32 => 32
  | .rv64 => 64

/-- EXTS: which of the ten sub-extensions are implemented (00_scope.md R3, R12). -/
structure Exts where
  zba : Bool
  zbb : Bool
  zbc : Bool
  zbe : Bool
  zbf : Bool
  zbm : Bool
  zbp : Bool
  zbr : Bool
  zbs : Bool
  zbt : Bool
  deriving DecidableEq, Repr

/-- No sub-extension at all. -/
def Exts.none : Exts :=
  ⟨false, false, false, false, false, false, false, false, false, false⟩

/-- The preset B_all of 00_scope.md R4: all ten sub-extensions. -/
def Exts.bAll : Exts :=
  ⟨true, true, true, true, true, true, true, true, true, true⟩

/-- The preset B_table of 00_scope.md R4: B_all without Zbr and Zbt. -/
def Exts.bTable : Exts := { Exts.bAll with zbr := false, zbt := false }

/-- BEXT_ASM: which instruction the bare assembler mnemonic bext or bextw means (00_scope.md R12, 48 R357). -/
inductive BextAsm where
  | zbs
  | zbe
  deriving DecidableEq, Repr

namespace Config

/-- XLEN of the machine after reset. DESIGN CHOICE (log entry 1), unsafe: the spec lets a launch choose 32 or 64. -/
def resetXlen : Xlen := .rv64

/-- EXTS of the machine after reset. DESIGN CHOICE (log entry 1), unsafe: the spec lets a launch choose any subset. -/
def resetExts : Exts := .bAll

/-- x[1] .. x[31] after reset. DESIGN CHOICE (log entry 2), unsafe: 10_state.md R31 leaves them unspecified. -/
def resetReg : Nat := 0

/-- RESET_PC. DESIGN CHOICE (log entry 3), unsafe: 92_eei_decisions.md D12 leaves it open. -/
def resetPc : Nat := 0x1000

end Config
end Sys2Proof
end

