-- ==== Sys2Proof/Syntax.lean ====
section
/-!
DEFINITION. The instructions: one constructor per row of spec/opcode_table.json.
rd, rs1, rs2, rs3 always name the fields of the instruction word (30_encoding.md R62), whatever order an assembler
writes them in (46_ternary.md). imm is the unsigned immediate field (R70). Where an immediate is narrower on RV32
(R71, R72), the constructor carries the RV64 width and WellFormed states the RV32 bound.
-/
namespace Sys2Proof

/-- The 103 instructions of draft 0.93, the nine base-ISA rows (49, R371 to R379) and the five pseudo-words (48, R341). -/
inductive Instr where
  -- 40: count, logic-with-negate, pack, min/max, sign-extend
  /-- `clz` (R101). -/
  | clz (rd rs1 : Reg)
  /-- `ctz` (R102). -/
  | ctz (rd rs1 : Reg)
  /-- `clzw` (R103). -/
  | clzw (rd rs1 : Reg)
  /-- `ctzw` (R104). -/
  | ctzw (rd rs1 : Reg)
  /-- `cpop` (R105). -/
  | cpop (rd rs1 : Reg)
  /-- `cpopw` (R106). -/
  | cpopw (rd rs1 : Reg)
  /-- `andn` (R107). -/
  | andn (rd rs1 rs2 : Reg)
  /-- `orn` (R108). -/
  | orn (rd rs1 rs2 : Reg)
  /-- `xnor` (R109). -/
  | xnor (rd rs1 rs2 : Reg)
  /-- `pack` (R110). -/
  | pack (rd rs1 rs2 : Reg)
  /-- `packu` (R111). -/
  | packu (rd rs1 rs2 : Reg)
  /-- `packh` (R112). -/
  | packh (rd rs1 rs2 : Reg)
  /-- `packw` (R113). -/
  | packw (rd rs1 rs2 : Reg)
  /-- `packuw` (R114). -/
  | packuw (rd rs1 rs2 : Reg)
  /-- `min` (R115). -/
  | min (rd rs1 rs2 : Reg)
  /-- `minu` (R116). -/
  | minu (rd rs1 rs2 : Reg)
  /-- `max` (R117). -/
  | max (rd rs1 rs2 : Reg)
  /-- `maxu` (R118). -/
  | maxu (rd rs1 rs2 : Reg)
  /-- `sext.b` (R119). -/
  | sextB (rd rs1 : Reg)
  /-- `sext.h` (R120). -/
  | sextH (rd rs1 : Reg)
  -- 41: single-bit, shift-ones
  /-- `bset` (R131). -/
  | bset (rd rs1 rs2 : Reg)
  /-- `bclr` (R132). -/
  | bclr (rd rs1 rs2 : Reg)
  /-- `binv` (R133). -/
  | binv (rd rs1 rs2 : Reg)
  /-- `bext[Zbs]` (R134). -/
  | bextZbs (rd rs1 rs2 : Reg)
  /-- `bseti` (R135). -/
  | bseti (rd rs1 : Reg) (imm : BitVec 6)
  /-- `bclri` (R136). -/
  | bclri (rd rs1 : Reg) (imm : BitVec 6)
  /-- `binvi` (R137). -/
  | binvi (rd rs1 : Reg) (imm : BitVec 6)
  /-- `bexti` (R138). -/
  | bexti (rd rs1 : Reg) (imm : BitVec 6)
  /-- `bsetw` (R139). -/
  | bsetw (rd rs1 rs2 : Reg)
  /-- `bclrw` (R140). -/
  | bclrw (rd rs1 rs2 : Reg)
  /-- `binvw` (R141). -/
  | binvw (rd rs1 rs2 : Reg)
  /-- `bextw[Zbs]` (R142). -/
  | bextwZbs (rd rs1 rs2 : Reg)
  /-- `bsetiw` (R143). -/
  | bsetiw (rd rs1 : Reg) (imm : BitVec 5)
  /-- `bclriw` (R144). -/
  | bclriw (rd rs1 : Reg) (imm : BitVec 5)
  /-- `binviw` (R145). -/
  | binviw (rd rs1 : Reg) (imm : BitVec 5)
  /-- `slo` (R150). -/
  | slo (rd rs1 rs2 : Reg)
  /-- `sro` (R151). -/
  | sro (rd rs1 rs2 : Reg)
  /-- `sloi` (R152). -/
  | sloi (rd rs1 : Reg) (imm : BitVec 6)
  /-- `sroi` (R153). -/
  | sroi (rd rs1 : Reg) (imm : BitVec 6)
  /-- `slow` (R154). -/
  | slow (rd rs1 rs2 : Reg)
  /-- `srow` (R155). -/
  | srow (rd rs1 rs2 : Reg)
  /-- `sloiw` (R156). -/
  | sloiw (rd rs1 : Reg) (imm : BitVec 5)
  /-- `sroiw` (R157). -/
  | sroiw (rd rs1 : Reg) (imm : BitVec 5)
  -- 42: rotate, grev, gorc
  /-- `rol` (R171). -/
  | rol (rd rs1 rs2 : Reg)
  /-- `ror` (R172). -/
  | ror (rd rs1 rs2 : Reg)
  /-- `rori` (R173). -/
  | rori (rd rs1 : Reg) (imm : BitVec 6)
  /-- `rolw` (R174). -/
  | rolw (rd rs1 rs2 : Reg)
  /-- `rorw` (R175). -/
  | rorw (rd rs1 rs2 : Reg)
  /-- `roriw` (R176). -/
  | roriw (rd rs1 : Reg) (imm : BitVec 5)
  /-- `grev` (R181). -/
  | grev (rd rs1 rs2 : Reg)
  /-- `grevi` (R182). -/
  | grevi (rd rs1 : Reg) (imm : BitVec 6)
  /-- `grevw` (R183). -/
  | grevw (rd rs1 rs2 : Reg)
  /-- `greviw` (R184). -/
  | greviw (rd rs1 : Reg) (imm : BitVec 5)
  /-- `gorc` (R191). -/
  | gorc (rd rs1 rs2 : Reg)
  /-- `gorci` (R192). -/
  | gorci (rd rs1 : Reg) (imm : BitVec 6)
  /-- `gorcw` (R193). -/
  | gorcw (rd rs1 rs2 : Reg)
  /-- `gorciw` (R194). -/
  | gorciw (rd rs1 : Reg) (imm : BitVec 5)
  -- 43: shuffle, xperm
  /-- `shfl` (R211). -/
  | shfl (rd rs1 rs2 : Reg)
  /-- `unshfl` (R212). -/
  | unshfl (rd rs1 rs2 : Reg)
  /-- `shfli` (R213). -/
  | shfli (rd rs1 : Reg) (imm : BitVec 5)
  /-- `unshfli` (R214). -/
  | unshfli (rd rs1 : Reg) (imm : BitVec 5)
  /-- `shflw` (R215). -/
  | shflw (rd rs1 rs2 : Reg)
  /-- `unshflw` (R216). -/
  | unshflw (rd rs1 rs2 : Reg)
  /-- `xperm.n` (R221). -/
  | xpermN (rd rs1 rs2 : Reg)
  /-- `xperm.b` (R222). -/
  | xpermB (rd rs1 rs2 : Reg)
  /-- `xperm.h` (R223). -/
  | xpermH (rd rs1 rs2 : Reg)
  /-- `xperm.w` (R224). -/
  | xpermW (rd rs1 rs2 : Reg)
  -- 44: bfp, bext[Zbe], bdep
  /-- `bfp` (R241). -/
  | bfp (rd rs1 rs2 : Reg)
  /-- `bfpw` (R242). -/
  | bfpw (rd rs1 rs2 : Reg)
  /-- `bext[Zbe]` (R246). -/
  | bextZbe (rd rs1 rs2 : Reg)
  /-- `bdep` (R247). -/
  | bdep (rd rs1 rs2 : Reg)
  /-- `bextw[Zbe]` (R248). -/
  | bextwZbe (rd rs1 rs2 : Reg)
  /-- `bdepw` (R249). -/
  | bdepw (rd rs1 rs2 : Reg)
  -- 45: clmul, CRC, bit matrix
  /-- `clmul` (R261). -/
  | clmul (rd rs1 rs2 : Reg)
  /-- `clmulh` (R262). -/
  | clmulh (rd rs1 rs2 : Reg)
  /-- `clmulr` (R263). -/
  | clmulr (rd rs1 rs2 : Reg)
  /-- `crc32.b` (R271). -/
  | crc32B (rd rs1 : Reg)
  /-- `crc32.h` (R272). -/
  | crc32H (rd rs1 : Reg)
  /-- `crc32.w` (R273). -/
  | crc32W (rd rs1 : Reg)
  /-- `crc32.d` (R274). -/
  | crc32D (rd rs1 : Reg)
  /-- `crc32c.b` (R275). -/
  | crc32cB (rd rs1 : Reg)
  /-- `crc32c.h` (R276). -/
  | crc32cH (rd rs1 : Reg)
  /-- `crc32c.w` (R277). -/
  | crc32cW (rd rs1 : Reg)
  /-- `crc32c.d` (R278). -/
  | crc32cD (rd rs1 : Reg)
  /-- `bmatflip` (R286). -/
  | bmatflip (rd rs1 : Reg)
  /-- `bmatxor` (R287). -/
  | bmatxor (rd rs1 rs2 : Reg)
  /-- `bmator` (R288). -/
  | bmator (rd rs1 rs2 : Reg)
  -- 46: cmix, cmov, funnel shifts
  /-- `cmix` (R300). -/
  | cmix (rd rs1 rs2 rs3 : Reg)
  /-- `cmov` (R301). -/
  | cmov (rd rs1 rs2 rs3 : Reg)
  /-- `fsl` (R303). -/
  | fsl (rd rs1 rs2 rs3 : Reg)
  /-- `fsr` (R304). -/
  | fsr (rd rs1 rs2 rs3 : Reg)
  /-- `fsri` (R305). -/
  | fsri (rd rs1 rs3 : Reg) (imm : BitVec 6)
  /-- `fslw` (R306). -/
  | fslw (rd rs1 rs2 rs3 : Reg)
  /-- `fsrw` (R307). -/
  | fsrw (rd rs1 rs2 rs3 : Reg)
  /-- `fsriw` (R308). -/
  | fsriw (rd rs1 rs3 : Reg) (imm : BitVec 5)
  -- 47: shift-and-add, .uw
  /-- `sh1add` (R320). -/
  | sh1add (rd rs1 rs2 : Reg)
  /-- `sh2add` (R321). -/
  | sh2add (rd rs1 rs2 : Reg)
  /-- `sh3add` (R322). -/
  | sh3add (rd rs1 rs2 : Reg)
  /-- `sh1add.uw` (R323). -/
  | sh1addUw (rd rs1 rs2 : Reg)
  /-- `sh2add.uw` (R324). -/
  | sh2addUw (rd rs1 rs2 : Reg)
  /-- `sh3add.uw` (R325). -/
  | sh3addUw (rd rs1 rs2 : Reg)
  /-- `add.uw` (R326). -/
  | addUw (rd rs1 rs2 : Reg)
  /-- `slli.uw` (R327). -/
  | slliUw (rd rs1 : Reg) (imm : BitVec 6)
  -- 49: the nine base-ISA rows
  /-- `and` (R371). -/
  | and (rd rs1 rs2 : Reg)
  /-- `or` (R372). -/
  | or (rd rs1 rs2 : Reg)
  /-- `xor` (R373). -/
  | xor (rd rs1 rs2 : Reg)
  /-- `sll` (R374). -/
  | sll (rd rs1 rs2 : Reg)
  /-- `srl` (R375). -/
  | srl (rd rs1 rs2 : Reg)
  /-- `sra` (R376). -/
  | sra (rd rs1 rs2 : Reg)
  /-- `slli` (R377). -/
  | slli (rd rs1 : Reg) (imm : BitVec 6)
  /-- `srli` (R378). -/
  | srli (rd rs1 : Reg) (imm : BitVec 6)
  /-- `srai` (R379). -/
  | srai (rd rs1 : Reg) (imm : BitVec 6)
  -- 48: the pseudo-words: a fixed word of a wider instruction
  /-- `zext.h` (R342). -/
  | zextH (rd rs1 : Reg)
  /-- `rev8` (R346). -/
  | rev8 (rd rs1 : Reg)
  /-- `orc.b` (R348). -/
  | orcB (rd rs1 : Reg)
  /-- `unzip8` (R352). -/
  | unzip8 (rd rs1 : Reg)
  /-- `unzip16` (R352). -/
  | unzip16 (rd rs1 : Reg)
  deriving DecidableEq, Repr

end Sys2Proof
end

