-- ==== Sys2Proof/Decode.lean ====
section
/-!
DEFINITION. Decoding and encoding of instruction words (30_encoding.md), written from the rows of rule R92.
An instruction word is read by its major opcode (R61) and its function fields (R62 to R65) through one list per format;
then the width check (R85), the immediate bound on RV32 (R71, R72), the fixed words of rule R341 (48) and the membership
of the row in EXTS (R3, R83, R84) decide whether it is an instruction of the machine as configured.
The encoder below it writes the word of an instruction from the same rows.
-/
namespace Sys2Proof

/-! ## Byte order (20_memory.md R42) -/

/-- The number whose bytes are listed from the lowest address up, little-endian: the first byte holds bits 7:0 (R42). -/
def leValue : List Byte → Nat
  | [] => 0
  | b :: bs => b.toNat + 256 * leValue bs

/-- The low `n` bytes of a number in the order of their addresses, little-endian (R42). -/
def leBytes : Nat → Nat → List Byte
  | 0, _ => []
  | n + 1, v => BitVec.ofNat 8 v :: leBytes n (v / 256)

/-- The instruction word assembled from the bytes at pc, pc+1, pc+2, pc+3 (R44). -/
def wordOfBytes (bs : List Byte) : InstrWord := BitVec.ofNat 32 (leValue bs)

/-- The four bytes of an instruction word in the order of their addresses (R42). -/
def wordBytes (w : InstrWord) : List Byte := leBytes 4 w.toNat

/-! ## Fields (R61, R62) -/

/-- Major opcode OP (R61). -/
def opOp : BitVec 7 := 0b0110011#7
/-- Major opcode OP-IMM (R61). -/
def opImm : BitVec 7 := 0b0010011#7
/-- Major opcode OP-32, RV64 only (R61). -/
def op32 : BitVec 7 := 0b0111011#7
/-- Major opcode OP-IMM-32, RV64 only (R61). -/
def opImm32 : BitVec 7 := 0b0011011#7

/-- The register number in the five bits from `lo` up. -/
def regField (w : InstrWord) (lo : Nat) : Reg := ⟨(w.extractLsb' lo 5).toNat, (w.extractLsb' lo 5).isLt⟩
/-- A register number as the five bits of its field. -/
def regBits (r : Reg) : BitVec 5 := BitVec.ofNat 5 r.val

/-- opcode, bits 6:0. -/
def opcodeOf (w : InstrWord) : BitVec 7 := w.extractLsb' 0 7
/-- rd, bits 11:7. -/
def rdOf (w : InstrWord) : Reg := regField w 7
/-- funct3, bits 14:12. -/
def funct3Of (w : InstrWord) : BitVec 3 := w.extractLsb' 12 3
/-- rs1, bits 19:15. -/
def rs1Of (w : InstrWord) : Reg := regField w 15
/-- rs2, bits 24:20. -/
def rs2Of (w : InstrWord) : Reg := regField w 20
/-- rs3, bits 31:27. -/
def rs3Of (w : InstrWord) : Reg := regField w 27
/-- funct7, bits 31:25. -/
def funct7Of (w : InstrWord) : BitVec 7 := w.extractLsb' 25 7
/-- f2, bits 26:25 of a ternary instruction. -/
def f2Of (w : InstrWord) : BitVec 2 := w.extractLsb' 25 2
/-- Bits 31:26: the function bits above a six-bit immediate. -/
def funct6Of (w : InstrWord) : BitVec 6 := w.extractLsb' 26 6
/-- Bits 31:20: the I-type field, a function code as a whole for a unary instruction (R75). -/
def funct12Of (w : InstrWord) : BitVec 12 := w.extractLsb' 20 12
/-- The six-bit immediate, bits 25:20 (R71, R73, R74). -/
def imm6Of (w : InstrWord) : BitVec 6 := w.extractLsb' 20 6
/-- The five-bit immediate, bits 24:20 (R72, R74). -/
def imm5Of (w : InstrWord) : BitVec 5 := w.extractLsb' 20 5
/-- Bit 26, which marks a ternary instruction (R62, R82). -/
def ternaryBit (w : InstrWord) : Bool := w.getLsbD 26

/-! ## The rows of rule R92, one list per format -/

/-- R-type rows of OP by funct7 and funct3: `mk rd rs1 rs2` (R63). -/
def opRows : List (BitVec 10 × (Reg → Reg → Reg → Instr)) := [
  (0b0100000#7 ++ 0b111#3, .andn),
  (0b0100000#7 ++ 0b110#3, .orn),
  (0b0100000#7 ++ 0b100#3, .xnor),
  (0b0000100#7 ++ 0b100#3, .pack),
  (0b0100100#7 ++ 0b100#3, .packu),
  (0b0000100#7 ++ 0b111#3, .packh),
  (0b0000101#7 ++ 0b100#3, .min),
  (0b0000101#7 ++ 0b101#3, .minu),
  (0b0000101#7 ++ 0b110#3, .max),
  (0b0000101#7 ++ 0b111#3, .maxu),
  (0b0010100#7 ++ 0b001#3, .bset),
  (0b0100100#7 ++ 0b001#3, .bclr),
  (0b0110100#7 ++ 0b001#3, .binv),
  (0b0100100#7 ++ 0b101#3, .bextZbs),
  (0b0010000#7 ++ 0b001#3, .slo),
  (0b0010000#7 ++ 0b101#3, .sro),
  (0b0110000#7 ++ 0b001#3, .rol),
  (0b0110000#7 ++ 0b101#3, .ror),
  (0b0110100#7 ++ 0b101#3, .grev),
  (0b0010100#7 ++ 0b101#3, .gorc),
  (0b0000100#7 ++ 0b001#3, .shfl),
  (0b0000100#7 ++ 0b101#3, .unshfl),
  (0b0010100#7 ++ 0b010#3, .xpermN),
  (0b0010100#7 ++ 0b100#3, .xpermB),
  (0b0010100#7 ++ 0b110#3, .xpermH),
  (0b0010100#7 ++ 0b000#3, .xpermW),
  (0b0100100#7 ++ 0b111#3, .bfp),
  (0b0000100#7 ++ 0b110#3, .bextZbe),
  (0b0100100#7 ++ 0b110#3, .bdep),
  (0b0000101#7 ++ 0b001#3, .clmul),
  (0b0000101#7 ++ 0b011#3, .clmulh),
  (0b0000101#7 ++ 0b010#3, .clmulr),
  (0b0100100#7 ++ 0b011#3, .bmatxor),
  (0b0000100#7 ++ 0b011#3, .bmator),
  (0b0010000#7 ++ 0b010#3, .sh1add),
  (0b0010000#7 ++ 0b100#3, .sh2add),
  (0b0010000#7 ++ 0b110#3, .sh3add),
  (0b0000000#7 ++ 0b111#3, .and),
  (0b0000000#7 ++ 0b110#3, .or),
  (0b0000000#7 ++ 0b100#3, .xor),
  (0b0000000#7 ++ 0b001#3, .sll),
  (0b0000000#7 ++ 0b101#3, .srl),
  (0b0100000#7 ++ 0b101#3, .sra)]

/-- R-type rows of OP-32 by funct7 and funct3 (R63). -/
def op32Rows : List (BitVec 10 × (Reg → Reg → Reg → Instr)) := [
  (0b0000100#7 ++ 0b100#3, .packw),
  (0b0100100#7 ++ 0b100#3, .packuw),
  (0b0010100#7 ++ 0b001#3, .bsetw),
  (0b0100100#7 ++ 0b001#3, .bclrw),
  (0b0110100#7 ++ 0b001#3, .binvw),
  (0b0100100#7 ++ 0b101#3, .bextwZbs),
  (0b0010000#7 ++ 0b001#3, .slow),
  (0b0010000#7 ++ 0b101#3, .srow),
  (0b0110000#7 ++ 0b001#3, .rolw),
  (0b0110000#7 ++ 0b101#3, .rorw),
  (0b0110100#7 ++ 0b101#3, .grevw),
  (0b0010100#7 ++ 0b101#3, .gorcw),
  (0b0000100#7 ++ 0b001#3, .shflw),
  (0b0000100#7 ++ 0b101#3, .unshflw),
  (0b0100100#7 ++ 0b111#3, .bfpw),
  (0b0000100#7 ++ 0b110#3, .bextwZbe),
  (0b0100100#7 ++ 0b110#3, .bdepw),
  (0b0010000#7 ++ 0b010#3, .sh1addUw),
  (0b0010000#7 ++ 0b100#3, .sh2addUw),
  (0b0010000#7 ++ 0b110#3, .sh3addUw),
  (0b0000100#7 ++ 0b000#3, .addUw)]

/-- R4-type rows of OP by f2 and funct3: `mk rd rs1 rs2 rs3` (R64, R82). -/
def opTernaryRows : List (BitVec 5 × (Reg → Reg → Reg → Reg → Instr)) := [
  (0b11#2 ++ 0b001#3, .cmix),
  (0b11#2 ++ 0b101#3, .cmov),
  (0b10#2 ++ 0b001#3, .fsl),
  (0b10#2 ++ 0b101#3, .fsr)]

/-- R4-type rows of OP-32 by f2 and funct3 (R64, R82). -/
def op32TernaryRows : List (BitVec 5 × (Reg → Reg → Reg → Reg → Instr)) := [
  (0b10#2 ++ 0b001#3, .fslw),
  (0b10#2 ++ 0b101#3, .fsrw)]

/-- I-shamt rows of OP-IMM by bits 31:26 and funct3: `mk rd rs1 imm` (R65, R71; bit 26 is 0 in every row). -/
def opImmShamtRows : List (BitVec 9 × (Reg → Reg → BitVec 6 → Instr)) := [
  (0b001010#6 ++ 0b001#3, .bseti),
  (0b010010#6 ++ 0b001#3, .bclri),
  (0b011010#6 ++ 0b001#3, .binvi),
  (0b010010#6 ++ 0b101#3, .bexti),
  (0b001000#6 ++ 0b001#3, .sloi),
  (0b001000#6 ++ 0b101#3, .sroi),
  (0b011000#6 ++ 0b101#3, .rori),
  (0b011010#6 ++ 0b101#3, .grevi),
  (0b001010#6 ++ 0b101#3, .gorci),
  (0b000000#6 ++ 0b001#3, .slli),
  (0b000000#6 ++ 0b101#3, .srli),
  (0b010000#6 ++ 0b101#3, .srai)]

/-- I-shfl rows of OP-IMM by funct7 and funct3 (R65, R72). -/
def opImmShflRows : List (BitVec 10 × (Reg → Reg → BitVec 5 → Instr)) := [
  (0b0000100#7 ++ 0b001#3, .shfli),
  (0b0000100#7 ++ 0b101#3, .unshfli)]

/-- I-unary rows of OP-IMM by bits 31:20 and funct3: `mk rd rs1` (R75, R76). -/
def opImmUnaryRows : List (BitVec 15 × (Reg → Reg → Instr)) := [
  (0b011000000000#12 ++ 0b001#3, .clz),
  (0b011000000001#12 ++ 0b001#3, .ctz),
  (0b011000000010#12 ++ 0b001#3, .cpop),
  (0b011000000100#12 ++ 0b001#3, .sextB),
  (0b011000000101#12 ++ 0b001#3, .sextH),
  (0b011000010000#12 ++ 0b001#3, .crc32B),
  (0b011000010001#12 ++ 0b001#3, .crc32H),
  (0b011000010010#12 ++ 0b001#3, .crc32W),
  (0b011000010011#12 ++ 0b001#3, .crc32D),
  (0b011000011000#12 ++ 0b001#3, .crc32cB),
  (0b011000011001#12 ++ 0b001#3, .crc32cH),
  (0b011000011010#12 ++ 0b001#3, .crc32cW),
  (0b011000011011#12 ++ 0b001#3, .crc32cD),
  (0b011000000011#12 ++ 0b001#3, .bmatflip)]

/-- The one row of OP-IMM-32 with a six-bit immediate, by bits 31:26 and funct3 (R74, R93). -/
def opImm32ShamtRows : List (BitVec 9 × (Reg → Reg → BitVec 6 → Instr)) := [
  (0b000010#6 ++ 0b001#3, .slliUw)]

/-- I-shamtw rows of OP-IMM-32 by funct7 and funct3 (R65, R74). -/
def opImm32ShamtwRows : List (BitVec 10 × (Reg → Reg → BitVec 5 → Instr)) := [
  (0b0010100#7 ++ 0b001#3, .bsetiw),
  (0b0100100#7 ++ 0b001#3, .bclriw),
  (0b0110100#7 ++ 0b001#3, .binviw),
  (0b0010000#7 ++ 0b001#3, .sloiw),
  (0b0010000#7 ++ 0b101#3, .sroiw),
  (0b0110000#7 ++ 0b101#3, .roriw),
  (0b0110100#7 ++ 0b101#3, .greviw),
  (0b0010100#7 ++ 0b101#3, .gorciw)]

/-- I-unary rows of OP-IMM-32 by bits 31:20 and funct3 (R75). -/
def opImm32UnaryRows : List (BitVec 15 × (Reg → Reg → Instr)) := [
  (0b011000000000#12 ++ 0b001#3, .clzw),
  (0b011000000001#12 ++ 0b001#3, .ctzw),
  (0b011000000010#12 ++ 0b001#3, .cpopw)]

/-- The row of R92 whose fixed bits the word has, at the RV64 patterns; rule R83 says that there is at most one. -/
def decodeRow (w : InstrWord) : Option Instr :=
  let rd := rdOf w
  let rs1 := rs1Of w
  let f3 := funct3Of w
  if opcodeOf w = opOp then
    if ternaryBit w then
      (opTernaryRows.lookup (f2Of w ++ f3)).map fun mk => mk rd rs1 (rs2Of w) (rs3Of w)
    else
      (opRows.lookup (funct7Of w ++ f3)).map fun mk => mk rd rs1 (rs2Of w)
  else if opcodeOf w = op32 then
    if ternaryBit w then
      (op32TernaryRows.lookup (f2Of w ++ f3)).map fun mk => mk rd rs1 (rs2Of w) (rs3Of w)
    else
      (op32Rows.lookup (funct7Of w ++ f3)).map fun mk => mk rd rs1 (rs2Of w)
  else if opcodeOf w = opImm then
    if ternaryBit w then
      if f3 = 0b101#3 then some (.fsri rd rs1 (rs3Of w) (imm6Of w)) else none
    else
      match opImmShamtRows.lookup (funct6Of w ++ f3) with
      | some mk => some (mk rd rs1 (imm6Of w))
      | none =>
        match opImmShflRows.lookup (funct7Of w ++ f3) with
        | some mk => some (mk rd rs1 (imm5Of w))
        | none => (opImmUnaryRows.lookup (funct12Of w ++ f3)).map fun mk => mk rd rs1
  else if opcodeOf w = opImm32 then
    if ternaryBit w then
      if f2Of w ++ f3 = 0b10#2 ++ 0b101#3 then some (.fsriw rd rs1 (rs3Of w) (imm5Of w)) else none
    else
      match opImm32ShamtRows.lookup (funct6Of w ++ f3) with
      | some mk => some (mk rd rs1 (imm6Of w))
      | none =>
        match opImm32ShamtwRows.lookup (funct7Of w ++ f3) with
        | some mk => some (mk rd rs1 (imm5Of w))
        | none => (opImm32UnaryRows.lookup (funct12Of w ++ f3)).map fun mk => mk rd rs1
  else none

/-! ## Which instructions a machine has -/

/-- The rows listed for XLEN = 64 only (R85, R92). -/
def Instr.rv64Only : Instr → Bool
  | .clzw .. | .ctzw .. | .cpopw .. | .packw .. | .packuw .. | .bsetw .. | .bclrw .. | .binvw ..
  | .bextwZbs .. | .bsetiw .. | .bclriw .. | .binviw .. | .slow .. | .srow .. | .sloiw .. | .sroiw ..
  | .rolw .. | .rorw .. | .roriw .. | .grevw .. | .greviw .. | .gorcw .. | .gorciw .. | .shflw ..
  | .unshflw .. | .xpermW .. | .bfpw .. | .bextwZbe .. | .bdepw .. | .crc32D .. | .crc32cD .. | .bmatflip ..
  | .bmatxor .. | .bmator .. | .fslw .. | .fsrw .. | .fsriw .. | .sh1addUw .. | .sh2addUw .. | .sh3addUw ..
  | .addUw .. | .slliUw .. | .unzip8 .. | .unzip16 .. => true
  | _ => false

/-- The bound on an immediate that is narrower on RV32: shift-type immediates have five bits there (R71), those of
shfli and unshfli four (R72). fsri has six bits at both widths (R73), against the note of its opcode-table row: log entry 8. -/
def Instr.immFits : Xlen → Instr → Bool
  | .rv64, _ => true
  | .rv32, i =>
    match i with
    | .bseti _ _ imm | .bclri _ _ imm | .binvi _ _ imm | .bexti _ _ imm | .sloi _ _ imm | .sroi _ _ imm
    | .rori _ _ imm | .grevi _ _ imm | .gorci _ _ imm | .slli _ _ imm | .srli _ _ imm | .srai _ _ imm => imm.ult 32#6
    | .shfli _ _ imm | .unshfli _ _ imm => imm.ult 16#5
    | _ => true

/-- The sub-extension sets of the rows (R3, R92): an instruction is implemented if some sub-extension that lists it is.
Zbm lists pack and packu on RV64 only (R83). A fixed word of rule R341 is implemented by the sub-extension that lists its
name (Zbb, Zbm) and by every one that lists the wider instruction whose word it is (R84). -/
def Instr.implemented (x : Xlen) (e : Exts) : Instr → Bool
  | .clz .. | .ctz .. | .clzw .. | .ctzw .. | .cpop .. | .cpopw .. | .min .. | .minu ..
  | .max .. | .maxu .. | .sextB .. | .sextH .. => e.zbb
  | .andn .. | .orn .. | .xnor .. | .rol .. | .ror .. | .rori .. | .rolw .. | .rorw ..
  | .roriw .. => e.zbb || e.zbp
  | .packh .. | .packw .. => e.zbp || e.zbe || e.zbf
  | .packuw .. | .slo .. | .sro .. | .sloi .. | .sroi .. | .slow .. | .srow .. | .sloiw ..
  | .sroiw .. | .grev .. | .grevi .. | .grevw .. | .greviw .. | .gorc .. | .gorci .. | .gorcw ..
  | .gorciw .. | .shfl .. | .unshfl .. | .shfli .. | .unshfli .. | .shflw .. | .unshflw .. | .xpermN ..
  | .xpermB .. | .xpermH .. | .xpermW .. => e.zbp
  | .bset .. | .bclr .. | .binv .. | .bextZbs .. | .bseti .. | .bclri .. | .binvi .. | .bexti ..
  | .bsetw .. | .bclrw .. | .binvw .. | .bextwZbs .. | .bsetiw .. | .bclriw .. | .binviw .. => e.zbs
  | .bfp .. | .bfpw .. => e.zbf
  | .bextZbe .. | .bdep .. | .bextwZbe .. | .bdepw .. => e.zbe
  | .clmul .. | .clmulh .. | .clmulr .. => e.zbc
  | .crc32B .. | .crc32H .. | .crc32W .. | .crc32D .. | .crc32cB .. | .crc32cH .. | .crc32cW .. | .crc32cD .. => e.zbr
  | .bmatflip .. | .bmatxor .. | .bmator .. => e.zbm
  | .cmix .. | .cmov .. | .fsl .. | .fsr .. | .fsri .. | .fslw .. | .fsrw .. | .fsriw .. => e.zbt
  | .sh1add .. | .sh2add .. | .sh3add .. | .sh1addUw .. | .sh2addUw .. | .sh3addUw .. | .addUw .. | .slliUw .. => e.zba
  | .and .. | .or .. | .xor .. | .sll .. | .srl .. | .sra .. | .slli .. | .srli ..
  | .srai .. => true
  | .pack .. => e.zbp || e.zbe || e.zbf || (e.zbm && x = .rv64)
  | .packu .. => e.zbp || (e.zbm && x = .rv64)
  | .zextH .. => e.zbb || e.zbp || e.zbe || e.zbf
  | .rev8 .. | .orcB .. => e.zbb || e.zbp
  | .unzip8 .. | .unzip16 .. => e.zbm || e.zbp

/-- The immediate of rev8: 24 on RV32, 56 on RV64 (48, R341). -/
def rev8Imm : Xlen → BitVec 6
  | .rv32 => 24#6
  | .rv64 => 56#6

/-- The fixed words that have a row of their own (48, R341): zext.h is `pack rd, rs, zero` on RV32 and
`packw rd, rs, zero` on RV64, rev8 is grevi 24 or 56, orc.b gorci 7, unzip8 and unzip16 unshfli 24 and 16 on RV64.
Such a word is read as the row of its name, whichever sub-extension admits it: log entry 10. -/
def Instr.named (x : Xlen) (i : Instr) : Instr :=
  match x, i with
  | .rv32, .pack rd rs1 rs2 => if rs2 = 0 then .zextH rd rs1 else i
  | .rv64, .packw rd rs1 rs2 => if rs2 = 0 then .zextH rd rs1 else i
  | _, .grevi rd rs1 imm => if imm = rev8Imm x then .rev8 rd rs1 else i
  | _, .gorci rd rs1 imm => if imm = 7#6 then .orcB rd rs1 else i
  | .rv64, .unshfli rd rs1 imm =>
    if imm = 24#5 then .unzip8 rd rs1 else if imm = 16#5 then .unzip16 rd rs1 else i
  | _, _ => i

/-! ## Decoding (R83) -/

/-- Why a word is no instruction of the machine as configured (60_exceptions.md R421, the causes of its table). -/
inductive DecodeError where
  /-- The word matches no row of R92. -/
  | noRow
  /-- The row is listed for XLEN = 64 only and XLEN is 32 (R85). -/
  | rv64Only
  /-- The immediate is too wide for RV32 (R71, R72, R86). -/
  | immediateTooWide
  /-- No sub-extension that lists the row is in EXTS (R83, R84). -/
  | notImplemented
  /-- Fewer than four bytes were given (only `decodeBytes` answers it). -/
  | truncated
  deriving DecidableEq, Repr

/-- Rule R83: the instruction of a word on a machine with this XLEN and EXTS. -/
def decode (x : Xlen) (e : Exts) (w : InstrWord) : Except DecodeError Instr :=
  match decodeRow w with
  | none => .error .noRow
  | some i =>
    if x = .rv32 ∧ i.rv64Only then .error .rv64Only
    else if i.immFits x then
      if (i.named x).implemented x e then .ok (i.named x) else .error .notImplemented
    else .error .immediateTooWide

/-- Decoding of bytes in the order of their addresses: the instruction and the bytes after it (R44, R60). -/
def decodeBytes (x : Xlen) (e : Exts) : List Byte → Except DecodeError (Instr × List Byte)
  | b0 :: b1 :: b2 :: b3 :: rest =>
    match decode x e (wordOfBytes [b0, b1, b2, b3]) with
    | .ok i => .ok (i, rest)
    | .error err => .error err
  | _ => .error .truncated

/-- The instruction the decoder of the machine after reset reads from a word of `nbits` bits, every higher bit 0. -/
def decodeTableWord (nbits w : Nat) : Option Instr :=
  match decodeBytes Config.resetXlen Config.resetExts (wordBytes (BitVec.ofNat 32 (w % 2 ^ nbits))) with
  | .ok (i, _) => some i
  | .error _ => none

/-! ## Encoding -/

/-- The word with the given I-type field, rs1, funct3, rd and opcode (R62, R65). -/
def wordOf (top : BitVec 12) (rs1 : Reg) (f3 : BitVec 3) (rd : Reg) (op : BitVec 7) : InstrWord :=
  top ++ regBits rs1 ++ f3 ++ regBits rd ++ op

/-- R-type (R63). -/
def rType (f7 : BitVec 7) (f3 : BitVec 3) (op : BitVec 7) (rd rs1 rs2 : Reg) : InstrWord :=
  wordOf (f7 ++ regBits rs2) rs1 f3 rd op

/-- R4-type (R64). -/
def r4Type (f2 : BitVec 2) (f3 : BitVec 3) (op : BitVec 7) (rd rs1 rs2 rs3 : Reg) : InstrWord :=
  wordOf (regBits rs3 ++ f2 ++ regBits rs2) rs1 f3 rd op

/-- I-shamt: six function bits and a six-bit immediate (R65, R71, R74). -/
def shamtType (f6 : BitVec 6) (f3 : BitVec 3) (op : BitVec 7) (rd rs1 : Reg) (imm : BitVec 6) : InstrWord :=
  wordOf (f6 ++ imm) rs1 f3 rd op

/-- I-shamtw and I-shfl: funct7 and a five-bit immediate (R65, R72, R74). -/
def shamtwType (f7 : BitVec 7) (f3 : BitVec 3) (op : BitVec 7) (rd rs1 : Reg) (imm : BitVec 5) : InstrWord :=
  wordOf (f7 ++ imm) rs1 f3 rd op

/-- I-unary: bits 31:20 are a function code (R65, R75). -/
def unaryType (f12 : BitVec 12) (f3 : BitVec 3) (op : BitVec 7) (rd rs1 : Reg) : InstrWord :=
  wordOf f12 rs1 f3 rd op

/-- The word of an instruction, from the patterns of R92 and R341. XLEN matters to zext.h and rev8 only. -/
def encode (x : Xlen) : Instr → InstrWord
  | .clz rd rs1 => unaryType 0b011000000000#12 0b001#3 opImm rd rs1
  | .ctz rd rs1 => unaryType 0b011000000001#12 0b001#3 opImm rd rs1
  | .clzw rd rs1 => unaryType 0b011000000000#12 0b001#3 opImm32 rd rs1
  | .ctzw rd rs1 => unaryType 0b011000000001#12 0b001#3 opImm32 rd rs1
  | .cpop rd rs1 => unaryType 0b011000000010#12 0b001#3 opImm rd rs1
  | .cpopw rd rs1 => unaryType 0b011000000010#12 0b001#3 opImm32 rd rs1
  | .andn rd rs1 rs2 => rType 0b0100000#7 0b111#3 opOp rd rs1 rs2
  | .orn rd rs1 rs2 => rType 0b0100000#7 0b110#3 opOp rd rs1 rs2
  | .xnor rd rs1 rs2 => rType 0b0100000#7 0b100#3 opOp rd rs1 rs2
  | .pack rd rs1 rs2 => rType 0b0000100#7 0b100#3 opOp rd rs1 rs2
  | .packu rd rs1 rs2 => rType 0b0100100#7 0b100#3 opOp rd rs1 rs2
  | .packh rd rs1 rs2 => rType 0b0000100#7 0b111#3 opOp rd rs1 rs2
  | .packw rd rs1 rs2 => rType 0b0000100#7 0b100#3 op32 rd rs1 rs2
  | .packuw rd rs1 rs2 => rType 0b0100100#7 0b100#3 op32 rd rs1 rs2
  | .min rd rs1 rs2 => rType 0b0000101#7 0b100#3 opOp rd rs1 rs2
  | .minu rd rs1 rs2 => rType 0b0000101#7 0b101#3 opOp rd rs1 rs2
  | .max rd rs1 rs2 => rType 0b0000101#7 0b110#3 opOp rd rs1 rs2
  | .maxu rd rs1 rs2 => rType 0b0000101#7 0b111#3 opOp rd rs1 rs2
  | .sextB rd rs1 => unaryType 0b011000000100#12 0b001#3 opImm rd rs1
  | .sextH rd rs1 => unaryType 0b011000000101#12 0b001#3 opImm rd rs1
  | .bset rd rs1 rs2 => rType 0b0010100#7 0b001#3 opOp rd rs1 rs2
  | .bclr rd rs1 rs2 => rType 0b0100100#7 0b001#3 opOp rd rs1 rs2
  | .binv rd rs1 rs2 => rType 0b0110100#7 0b001#3 opOp rd rs1 rs2
  | .bextZbs rd rs1 rs2 => rType 0b0100100#7 0b101#3 opOp rd rs1 rs2
  | .bseti rd rs1 imm => shamtType 0b001010#6 0b001#3 opImm rd rs1 imm
  | .bclri rd rs1 imm => shamtType 0b010010#6 0b001#3 opImm rd rs1 imm
  | .binvi rd rs1 imm => shamtType 0b011010#6 0b001#3 opImm rd rs1 imm
  | .bexti rd rs1 imm => shamtType 0b010010#6 0b101#3 opImm rd rs1 imm
  | .bsetw rd rs1 rs2 => rType 0b0010100#7 0b001#3 op32 rd rs1 rs2
  | .bclrw rd rs1 rs2 => rType 0b0100100#7 0b001#3 op32 rd rs1 rs2
  | .binvw rd rs1 rs2 => rType 0b0110100#7 0b001#3 op32 rd rs1 rs2
  | .bextwZbs rd rs1 rs2 => rType 0b0100100#7 0b101#3 op32 rd rs1 rs2
  | .bsetiw rd rs1 imm => shamtwType 0b0010100#7 0b001#3 opImm32 rd rs1 imm
  | .bclriw rd rs1 imm => shamtwType 0b0100100#7 0b001#3 opImm32 rd rs1 imm
  | .binviw rd rs1 imm => shamtwType 0b0110100#7 0b001#3 opImm32 rd rs1 imm
  | .slo rd rs1 rs2 => rType 0b0010000#7 0b001#3 opOp rd rs1 rs2
  | .sro rd rs1 rs2 => rType 0b0010000#7 0b101#3 opOp rd rs1 rs2
  | .sloi rd rs1 imm => shamtType 0b001000#6 0b001#3 opImm rd rs1 imm
  | .sroi rd rs1 imm => shamtType 0b001000#6 0b101#3 opImm rd rs1 imm
  | .slow rd rs1 rs2 => rType 0b0010000#7 0b001#3 op32 rd rs1 rs2
  | .srow rd rs1 rs2 => rType 0b0010000#7 0b101#3 op32 rd rs1 rs2
  | .sloiw rd rs1 imm => shamtwType 0b0010000#7 0b001#3 opImm32 rd rs1 imm
  | .sroiw rd rs1 imm => shamtwType 0b0010000#7 0b101#3 opImm32 rd rs1 imm
  | .rol rd rs1 rs2 => rType 0b0110000#7 0b001#3 opOp rd rs1 rs2
  | .ror rd rs1 rs2 => rType 0b0110000#7 0b101#3 opOp rd rs1 rs2
  | .rori rd rs1 imm => shamtType 0b011000#6 0b101#3 opImm rd rs1 imm
  | .rolw rd rs1 rs2 => rType 0b0110000#7 0b001#3 op32 rd rs1 rs2
  | .rorw rd rs1 rs2 => rType 0b0110000#7 0b101#3 op32 rd rs1 rs2
  | .roriw rd rs1 imm => shamtwType 0b0110000#7 0b101#3 opImm32 rd rs1 imm
  | .grev rd rs1 rs2 => rType 0b0110100#7 0b101#3 opOp rd rs1 rs2
  | .grevi rd rs1 imm => shamtType 0b011010#6 0b101#3 opImm rd rs1 imm
  | .grevw rd rs1 rs2 => rType 0b0110100#7 0b101#3 op32 rd rs1 rs2
  | .greviw rd rs1 imm => shamtwType 0b0110100#7 0b101#3 opImm32 rd rs1 imm
  | .gorc rd rs1 rs2 => rType 0b0010100#7 0b101#3 opOp rd rs1 rs2
  | .gorci rd rs1 imm => shamtType 0b001010#6 0b101#3 opImm rd rs1 imm
  | .gorcw rd rs1 rs2 => rType 0b0010100#7 0b101#3 op32 rd rs1 rs2
  | .gorciw rd rs1 imm => shamtwType 0b0010100#7 0b101#3 opImm32 rd rs1 imm
  | .shfl rd rs1 rs2 => rType 0b0000100#7 0b001#3 opOp rd rs1 rs2
  | .unshfl rd rs1 rs2 => rType 0b0000100#7 0b101#3 opOp rd rs1 rs2
  | .shfli rd rs1 imm => shamtwType 0b0000100#7 0b001#3 opImm rd rs1 imm
  | .unshfli rd rs1 imm => shamtwType 0b0000100#7 0b101#3 opImm rd rs1 imm
  | .shflw rd rs1 rs2 => rType 0b0000100#7 0b001#3 op32 rd rs1 rs2
  | .unshflw rd rs1 rs2 => rType 0b0000100#7 0b101#3 op32 rd rs1 rs2
  | .xpermN rd rs1 rs2 => rType 0b0010100#7 0b010#3 opOp rd rs1 rs2
  | .xpermB rd rs1 rs2 => rType 0b0010100#7 0b100#3 opOp rd rs1 rs2
  | .xpermH rd rs1 rs2 => rType 0b0010100#7 0b110#3 opOp rd rs1 rs2
  | .xpermW rd rs1 rs2 => rType 0b0010100#7 0b000#3 opOp rd rs1 rs2
  | .bfp rd rs1 rs2 => rType 0b0100100#7 0b111#3 opOp rd rs1 rs2
  | .bfpw rd rs1 rs2 => rType 0b0100100#7 0b111#3 op32 rd rs1 rs2
  | .bextZbe rd rs1 rs2 => rType 0b0000100#7 0b110#3 opOp rd rs1 rs2
  | .bdep rd rs1 rs2 => rType 0b0100100#7 0b110#3 opOp rd rs1 rs2
  | .bextwZbe rd rs1 rs2 => rType 0b0000100#7 0b110#3 op32 rd rs1 rs2
  | .bdepw rd rs1 rs2 => rType 0b0100100#7 0b110#3 op32 rd rs1 rs2
  | .clmul rd rs1 rs2 => rType 0b0000101#7 0b001#3 opOp rd rs1 rs2
  | .clmulh rd rs1 rs2 => rType 0b0000101#7 0b011#3 opOp rd rs1 rs2
  | .clmulr rd rs1 rs2 => rType 0b0000101#7 0b010#3 opOp rd rs1 rs2
  | .crc32B rd rs1 => unaryType 0b011000010000#12 0b001#3 opImm rd rs1
  | .crc32H rd rs1 => unaryType 0b011000010001#12 0b001#3 opImm rd rs1
  | .crc32W rd rs1 => unaryType 0b011000010010#12 0b001#3 opImm rd rs1
  | .crc32D rd rs1 => unaryType 0b011000010011#12 0b001#3 opImm rd rs1
  | .crc32cB rd rs1 => unaryType 0b011000011000#12 0b001#3 opImm rd rs1
  | .crc32cH rd rs1 => unaryType 0b011000011001#12 0b001#3 opImm rd rs1
  | .crc32cW rd rs1 => unaryType 0b011000011010#12 0b001#3 opImm rd rs1
  | .crc32cD rd rs1 => unaryType 0b011000011011#12 0b001#3 opImm rd rs1
  | .bmatflip rd rs1 => unaryType 0b011000000011#12 0b001#3 opImm rd rs1
  | .bmatxor rd rs1 rs2 => rType 0b0100100#7 0b011#3 opOp rd rs1 rs2
  | .bmator rd rs1 rs2 => rType 0b0000100#7 0b011#3 opOp rd rs1 rs2
  | .cmix rd rs1 rs2 rs3 => r4Type 0b11#2 0b001#3 opOp rd rs1 rs2 rs3
  | .cmov rd rs1 rs2 rs3 => r4Type 0b11#2 0b101#3 opOp rd rs1 rs2 rs3
  | .fsl rd rs1 rs2 rs3 => r4Type 0b10#2 0b001#3 opOp rd rs1 rs2 rs3
  | .fsr rd rs1 rs2 rs3 => r4Type 0b10#2 0b101#3 opOp rd rs1 rs2 rs3
  | .fsri rd rs1 rs3 imm => wordOf (regBits rs3 ++ 0b1#1 ++ imm) rs1 0b101#3 rd opImm
  | .fslw rd rs1 rs2 rs3 => r4Type 0b10#2 0b001#3 op32 rd rs1 rs2 rs3
  | .fsrw rd rs1 rs2 rs3 => r4Type 0b10#2 0b101#3 op32 rd rs1 rs2 rs3
  | .fsriw rd rs1 rs3 imm => wordOf (regBits rs3 ++ 0b10#2 ++ imm) rs1 0b101#3 rd opImm32
  | .sh1add rd rs1 rs2 => rType 0b0010000#7 0b010#3 opOp rd rs1 rs2
  | .sh2add rd rs1 rs2 => rType 0b0010000#7 0b100#3 opOp rd rs1 rs2
  | .sh3add rd rs1 rs2 => rType 0b0010000#7 0b110#3 opOp rd rs1 rs2
  | .sh1addUw rd rs1 rs2 => rType 0b0010000#7 0b010#3 op32 rd rs1 rs2
  | .sh2addUw rd rs1 rs2 => rType 0b0010000#7 0b100#3 op32 rd rs1 rs2
  | .sh3addUw rd rs1 rs2 => rType 0b0010000#7 0b110#3 op32 rd rs1 rs2
  | .addUw rd rs1 rs2 => rType 0b0000100#7 0b000#3 op32 rd rs1 rs2
  | .slliUw rd rs1 imm => shamtType 0b000010#6 0b001#3 opImm32 rd rs1 imm
  | .and rd rs1 rs2 => rType 0b0000000#7 0b111#3 opOp rd rs1 rs2
  | .or rd rs1 rs2 => rType 0b0000000#7 0b110#3 opOp rd rs1 rs2
  | .xor rd rs1 rs2 => rType 0b0000000#7 0b100#3 opOp rd rs1 rs2
  | .sll rd rs1 rs2 => rType 0b0000000#7 0b001#3 opOp rd rs1 rs2
  | .srl rd rs1 rs2 => rType 0b0000000#7 0b101#3 opOp rd rs1 rs2
  | .sra rd rs1 rs2 => rType 0b0100000#7 0b101#3 opOp rd rs1 rs2
  | .slli rd rs1 imm => shamtType 0b000000#6 0b001#3 opImm rd rs1 imm
  | .srli rd rs1 imm => shamtType 0b000000#6 0b101#3 opImm rd rs1 imm
  | .srai rd rs1 imm => shamtType 0b010000#6 0b101#3 opImm rd rs1 imm
  | .zextH rd rs1 => unaryType 0b000010000000#12 0b100#3 (if x = .rv32 then opOp else op32) rd rs1
  | .rev8 rd rs1 => shamtType 0b011010#6 0b101#3 opImm rd rs1 (rev8Imm x)
  | .orcB rd rs1 => unaryType 0b001010000111#12 0b101#3 opImm rd rs1
  | .unzip8 rd rs1 => unaryType 0b000010011000#12 0b101#3 opImm rd rs1
  | .unzip16 rd rs1 => unaryType 0b000010010000#12 0b101#3 opImm rd rs1

end Sys2Proof
end

