-- ==== Sys2Proof/Machine/Operands.lean ====
section
/-!
DEFINITION. The operand forms of the instructions (00_scope.md section 7, 41 R130, 47 R323, 45 R285), at any width n.
Everywhere n is XLEN, or 32 for a *W form (00_scope.md R8).
-/
namespace Sys2Proof.Machine

/-- `shamt_N(b)`: the low log2(N) bits of `b` as a number (R130). N is a power of two, so this is `b` modulo N. -/
def shamt (n : Nat) {m : Nat} (b : BitVec m) : Nat := b.toNat % n

/-- The low log2(N) + 1 bits of `b` as a number: the amount of a funnel shift (46 R302). -/
def funnelAmount (n : Nat) {m : Nat} (b : BitVec m) : Nat := b.toNat % (2 * n)

/-- `v[31:0]`: the low word of a register value (R8). -/
def lowWord {n : Nat} (v : BitVec n) : BitVec 32 := v.setWidth 32

/-- `zext_32(v[31:0])` at the width of `v` (47 R323): bits XLEN-1:32 cleared. -/
def zextWord {n : Nat} (v : BitVec n) : BitVec n := (lowWord v).setWidth n

/-- `sext_k(v)`: bit k-1 of `v` copied into every higher bit (00_scope.md section 7). -/
def sextLow (k : Nat) {n : Nat} (v : BitVec n) : BitVec n := (v.setWidth k).signExtend n

/-- The n-bit word whose bit i is `f i`. -/
def bitsOf : (n : Nat) → (Nat → Bool) → BitVec n
  | 0, _ => 0#0
  | n + 1, f => BitVec.cons (f n) (bitsOf n f)

/-- `{hi, lo}` of two n/2-bit halves as an n-bit word (n even). -/
def joinHalves (n : Nat) (hi lo : BitVec (n / 2)) : BitVec n := (hi ++ lo).setWidth n

/-- log2(N) for a width N. -/
def logWidth (n : Nat) : Nat := n.log2

end Sys2Proof.Machine
end

