-- ==== Sys2Proof/Machine/State.lean ====
section
/-!
DEFINITION. The state of the machine: 10_state.md R21, R23, R31 and 20_memory.md R41, with the launch parameters of
70_reset_and_hazards.md R451. There are no flags, control registers, other register files or hidden state (R24 to R29).
-/
namespace Sys2Proof.Machine

/-- A memory: (address, byte) pairs, addresses strictly rising. The listed addresses are the valid set of 20_memory.md
R41; an unlisted address reads as nothing, so no entry can equal what an unlisted address reads as (log entry 4). -/
abbrev Memory := List Host.Cell

/-- The whole state of the machine: plain data. -/
structure State where
  /-- XLEN (00_scope.md R6): chosen at launch, changed by no step. -/
  xlen : Xlen
  /-- EXTS (00_scope.md R12): chosen at launch, changed by no step. -/
  exts : Exts
  /-- x[0] .. x[31], each XLEN bits (R21). Slot 0 is never read: `State.x` answers 0 for register 0. -/
  regs : Vector (BitVec xlen.bits) 32
  /-- The address of the instruction being executed, XLEN bits (R23). -/
  pc : BitVec xlen.bits
  /-- The valid memory bytes (20_memory.md R41). -/
  mem : Memory
  /-- The model's own ledger, not the spec's: the addresses companion stores have written, strictly rising, read only by
  the fetch, which refuses such a byte (20_memory.md R50; log entry 6). -/
  written : List Nat
  /-- The model's own ledger, not the spec's: the addresses instructions have been fetched from, strictly rising, read only
  by the companion stores, which refuse to write such a byte (R50, 92_eei_decisions.md D14; log entry 6). -/
  fetched : List Nat
  deriving DecidableEq, Repr

/-- A word as wide as the registers of `s`. -/
abbrev State.XWord (s : State) : Type := BitVec s.xlen.bits

/-- The three faults of 60_exceptions.md R421 to R423. Each stops the run and leaves the state as it was (R426). -/
inductive Fault where
  /-- Raised by the decode step, and by the meaning of an RV64-only row on RV32: the word is no instruction of the machine
  as configured (R421). Carries the pc and the word. Safe: the spec states this fault. -/
  | illegalInstruction (pc : Nat) (word : BitVec 32)
  /-- Raised by the fetch when the pc is no multiple of 4 (R422). Safe: the spec states this fault. -/
  | instructionAddressMisaligned (pc : Nat)
  /-- Raised by the fetch, or by a companion load or store, that touches an address outside the valid set; `addr` is the
  lowest such address of the access (R423). Safe: the spec states this fault. -/
  | accessFault (pc : Nat) (addr : Nat)
  deriving DecidableEq, Repr

/-- The reasons the model gives no meaning. -/
inductive Refusal where
  /-- An arm of `exec` without a meaning. Raised by no arm of this model. Safe: the run stops. -/
  | notModelled (mnemonic : String)
  /-- Raised by the fetch when a byte of the word has been written by a store since launch; `addr` is the lowest such
  byte (20_memory.md R50, 93 U6). Safe: the spec defines no behaviour there and asks for a refusal. -/
  | storedProgramText (pc : Nat) (addr : Nat)
  /-- Raised by a companion store to valid addresses of which one has been fetched as program text; `addr` is the lowest such
  address (20_memory.md R50, 92_eei_decisions.md D14). Safe: the spec refuses a store into fetched text. -/
  | storeIntoFetchedText (pc : Nat) (addr : Nat)
  deriving DecidableEq, Repr

/-- What executing an instruction answers. -/
abbrev Result := Host.Outcome State Fault Refusal

/-- The launch state of a run from the tuple of 70_reset_and_hazards.md R451. -/
def State.launch (xlen : Xlen) (exts : Exts) (mem : Memory) (pc : BitVec xlen.bits)
    (regs : Vector (BitVec xlen.bits) 32) : State :=
  { xlen, exts, regs, pc, mem, written := [], fetched := [] }

/-- The machine right after reset (R31, R450). x[0] is 0 as the spec says; XLEN, EXTS, the other registers and the pc hold
the values of Config, each a DESIGN CHOICE of log entries 1 to 3; no memory address is valid (log entries 4 and 5). -/
def State.reset : State :=
  .launch Config.resetXlen Config.resetExts [] (BitVec.ofNat _ Config.resetPc)
    (Vector.replicate 32 (BitVec.ofNat _ Config.resetReg))

end Sys2Proof.Machine
end

