-- ==== Sys2Proof/Machine/Ops.lean ====
section
/-!
DEFINITION. The named operations over registers, memory and faults that every meaning is written with:
10_state.md R21, R26, R30; 20_memory.md R41 to R45, R50; 60_exceptions.md R421 to R429.
-/
namespace Sys2Proof.Machine

/-! ## Registers (R21) -/

/-- `x[r]`: register 0 reads as 0. -/
def State.x (s : State) (r : Reg) : s.XWord := if r = 0 then 0#_ else s.regs[r]

/-- `x[r][31:0]`, the low word of a register. -/
def State.xw (s : State) (r : Reg) : BitVec 32 := lowWord (s.x r)

/-- The state in which `x[rd] <- v` and `pc <- pc + 4` have been done together: the whole effect of an instruction of the
extension (R26, R30). A write to register 0 is discarded (R21). -/
def State.retire (s : State) (rd : Reg) (v : s.XWord) : State :=
  { s with regs := if rd = 0 then s.regs else s.regs.set rd v, pc := s.pc + 4#_ }

/-- The state in which only the pc has changed. -/
def State.jump (s : State) (target : s.XWord) : State := { s with pc := target }

/-- An instruction that ends normally with result `v`. -/
def State.done (s : State) (rd : Reg) (v : s.XWord) : Result := .next (s.retire rd v)

/-- A *W instruction that ends normally with the 32-bit result `v`, sign-extended (00_scope.md R8). -/
def State.doneW (s : State) (rd : Reg) (v : BitVec 32) : Result := s.done rd (v.signExtend _)

/-! ## Faults (60_exceptions.md) -/

/-- Taking an exception. Faults are terminal (R426): no register saves the pc, no status or mode changes, no handler runs
and nothing returns (R427); the outcome carries the fault, and the state stays the one before the step (R429). -/
def raiseFault (f : Fault) : Result := .fault f

/-- IllegalInstruction(w) at the pc of `s` (R421). -/
def State.illegal (s : State) (w : InstrWord) : Result := raiseFault (.illegalInstruction s.pc.toNat w)

/-- The meaning of an RV64-only row: its effect when XLEN is 64, IllegalInstruction with its word when XLEN is 32 (R85). -/
def State.onRv64 (s : State) (i : Instr) (effect : Result) : Result :=
  match s.xlen with
  | .rv64 => effect
  | .rv32 => s.illegal (encode .rv32 i)

/-! ## Memory (20_memory.md R41) -/

/-- The byte at an address; nothing outside the valid set. -/
def Memory.read : Memory → Nat → Option Byte
  | [], _ => none
  | (k, b) :: m, a => if k = a then some b else Memory.read m a

/-- The memory with a byte put at an address, keeping the addresses strictly rising. -/
def Memory.write : Memory → Nat → Byte → Memory
  | [], a, b => [(a, b)]
  | (k, v) :: m, a, b =>
    if a < k then (a, b) :: (k, v) :: m
    else if a = k then (a, b) :: m
    else (k, v) :: Memory.write m a b

/-- The canonical form of a memory with addresses below `bound`: addresses strictly rising. -/
abbrev Memory.wf (bound : Nat) (m : Memory) : Prop :=
  m.Pairwise (fun p q => p.1 < q.1) ∧ ∀ p ∈ m, p.1 < bound

/-- The byte at an address of the state's memory. -/
def State.readByte (s : State) (a : Nat) : Option Byte := Memory.read s.mem a

/-- The n consecutive byte addresses of an access from `a` up, modulo 2^XLEN (R43; log entry 9). -/
def State.span (s : State) (a : s.XWord) (n : Nat) : List Nat :=
  (List.range n).map fun k => (a + BitVec.ofNat _ k).toNat

/-- The lowest address of an access outside the valid set (60 R423). -/
def Memory.lowestInvalid (m : Memory) (addrs : List Nat) : Option Nat :=
  (addrs.filter fun a => (Memory.read m a).isNone).min?

/-- The bytes of an access, or the lowest address of it outside the valid set (R43, 60 R423). -/
def Memory.readAll (m : Memory) (addrs : List Nat) : Except Nat (List Byte) :=
  match Memory.lowestInvalid m addrs with
  | some a => .error a
  | none => .ok (addrs.filterMap (Memory.read m))

/-- Memory with the listed bytes put at the listed addresses. -/
def Memory.writeAll (m : Memory) (addrs : List Nat) (bs : List Byte) : Memory :=
  (addrs.zip bs).foldl (fun m p => Memory.write m p.1 p.2) m

/-- The lowest address of an access that a ledger holds (R50). -/
def lowestIn (ledger addrs : List Nat) : Option Nat := (addrs.filter fun a => ledger.contains a).min?

/-- An address put into a strictly rising list of addresses. -/
def insertAddr : List Nat → Nat → List Nat
  | [], a => [a]
  | k :: l, a => if a < k then a :: k :: l else if a = k then k :: l else k :: insertAddr l a

/-- `MemWrite`: the state after a store of bytes at addresses of the valid set, which the ledger of written addresses then
holds (R43, R50; log entry 6). -/
def State.storeBytes (s : State) (addrs : List Nat) (bs : List Byte) : State :=
  { s with mem := Memory.writeAll s.mem addrs bs, written := addrs.foldl insertAddr s.written }

/-! ## Instruction fetch (R44, R50; order of the checks: 60 R428) -/

/-- What a fetch answers. -/
inductive Fetched where
  /-- The instruction word at the pc. -/
  | word (w : InstrWord)
  /-- The fetch raises a fault. -/
  | fault (f : Fault)
  /-- The fetch is refused. -/
  | refused (r : Refusal)
  deriving DecidableEq, Repr

/-- Rule R44: the little-endian word at the pc, which must be a multiple of 4 (60 R422), its four addresses valid (60 R423)
and none of them written since launch (R50). -/
def State.fetch (s : State) : Fetched :=
  if s.pc.toNat % 4 ≠ 0 then .fault (.instructionAddressMisaligned s.pc.toNat)
  else
    match Memory.readAll s.mem (s.span s.pc 4) with
    | .error a => .fault (.accessFault s.pc.toNat a)
    | .ok bs =>
      match lowestIn s.written (s.span s.pc 4) with
      | some a => .refused (.storedProgramText s.pc.toNat a)
      | none => .word (wordOfBytes bs)

/-- The state in which the four addresses of the word at the pc count as fetched program text (R50; log entry 6): what the
step adds around executing an instruction. -/
def State.noteFetch (s : State) : State := { s with fetched := (s.span s.pc 4).foldl insertAddr s.fetched }

/-- The state with the word put into memory at the pc as launch contents (70 R451; log entry 5). -/
def State.placeWord (s : State) (w : InstrWord) : State :=
  { s with
    mem := Memory.writeAll s.mem (s.span s.pc 4) (wordBytes w)
    written := s.written.filter fun a => !(s.span s.pc 4).contains a }

end Sys2Proof.Machine
end

