-- ==== Sys2Proof/Machine/Companion.lean ====
section
/-!
DEFINITION. The base-ISA instructions that the spec describes beside the opcode table (49_base_isa_companion.md section 3,
R380 to R393; widths of the loads and stores: 20_memory.md R45; fences: R48). They are no rows of spec/opcode_table.json, so they stand
in an inductive of their own; the step tries them after the table (10_state.md R30). The encodings that the spec does not
print are the standard RISC-V ones: PRESUMED, log entry 7.
-/
namespace Sys2Proof.Machine

/-- The companion instructions. `imm` is the signed 12-bit immediate, `offset` the byte offset of a branch divided by two. -/
inductive Companion where
  -- R380, R385, R387, R391, R393: register-register
  | add (rd rs1 rs2 : Reg)
  | sub (rd rs1 rs2 : Reg)
  | slt (rd rs1 rs2 : Reg)
  | sltu (rd rs1 rs2 : Reg)
  | mul (rd rs1 rs2 : Reg)
  | mulh (rd rs1 rs2 : Reg)
  | addw (rd rs1 rs2 : Reg)
  | subw (rd rs1 rs2 : Reg)
  | sllw (rd rs1 rs2 : Reg)
  | srlw (rd rs1 rs2 : Reg)
  | sraw (rd rs1 rs2 : Reg)
  -- R381, R382, R385, R386, R387, R393: immediates
  | addi (rd rs1 : Reg) (imm : BitVec 12)
  | slti (rd rs1 : Reg) (imm : BitVec 12)
  | sltiu (rd rs1 : Reg) (imm : BitVec 12)
  | xori (rd rs1 : Reg) (imm : BitVec 12)
  | ori (rd rs1 : Reg) (imm : BitVec 12)
  | andi (rd rs1 : Reg) (imm : BitVec 12)
  | addiw (rd rs1 : Reg) (imm : BitVec 12)
  | slliw (rd rs1 : Reg) (imm : BitVec 5)
  | srliw (rd rs1 : Reg) (imm : BitVec 5)
  | sraiw (rd rs1 : Reg) (imm : BitVec 5)
  | lui (rd : Reg) (imm20 : BitVec 20)
  -- R45, R388: loads and stores
  | lb (rd rs1 : Reg) (imm : BitVec 12)
  | lh (rd rs1 : Reg) (imm : BitVec 12)
  | lw (rd rs1 : Reg) (imm : BitVec 12)
  | ld (rd rs1 : Reg) (imm : BitVec 12)
  | lbu (rd rs1 : Reg) (imm : BitVec 12)
  | lhu (rd rs1 : Reg) (imm : BitVec 12)
  | lwu (rd rs1 : Reg) (imm : BitVec 12)
  | sb (rs1 rs2 : Reg) (imm : BitVec 12)
  | sh (rs1 rs2 : Reg) (imm : BitVec 12)
  | sw (rs1 rs2 : Reg) (imm : BitVec 12)
  | sd (rs1 rs2 : Reg) (imm : BitVec 12)
  -- R389, R390: control transfer
  | beq (rs1 rs2 : Reg) (offset : BitVec 12)
  | bne (rs1 rs2 : Reg) (offset : BitVec 12)
  | blt (rs1 rs2 : Reg) (offset : BitVec 12)
  | bge (rs1 rs2 : Reg) (offset : BitVec 12)
  | bltu (rs1 rs2 : Reg) (offset : BitVec 12)
  | ret
  -- 20_memory.md R48: the two fences, whose other fields are ignored
  | fence (rd rs1 : Reg) (imm : BitVec 12)
  | fenceI (rd rs1 : Reg) (imm : BitVec 12)
  deriving DecidableEq, Repr

/-! ## Decoding -/

/-- The companion instructions that exist on RV64 only (R45, R380, R381, R385, R393). -/
def Companion.rv64Only : Companion → Bool
  | .addw .. | .subw .. | .sllw .. | .srlw .. | .sraw .. | .addiw .. | .slliw .. | .srliw .. | .sraiw ..
  | .ld .. | .lwu .. | .sd .. => true
  | _ => false

/-- Register-register rows by opcode, funct7 and funct3. -/
def companionRRows : List (BitVec 17 × (Reg → Reg → Reg → Companion)) := [
  (opOp ++ 0b0000000#7 ++ 0b000#3, .add),
  (opOp ++ 0b0100000#7 ++ 0b000#3, .sub),
  (opOp ++ 0b0000000#7 ++ 0b010#3, .slt),
  (opOp ++ 0b0000000#7 ++ 0b011#3, .sltu),
  (opOp ++ 0b0000001#7 ++ 0b000#3, .mul),
  (opOp ++ 0b0000001#7 ++ 0b001#3, .mulh),
  (op32 ++ 0b0000000#7 ++ 0b000#3, .addw),
  (op32 ++ 0b0100000#7 ++ 0b000#3, .subw),
  (op32 ++ 0b0000000#7 ++ 0b001#3, .sllw),
  (op32 ++ 0b0000000#7 ++ 0b101#3, .srlw),
  (op32 ++ 0b0100000#7 ++ 0b101#3, .sraw)]

/-- Shift rows with a five-bit immediate, by opcode, funct7 and funct3 (R393). -/
def companionShamtwRows : List (BitVec 17 × (Reg → Reg → BitVec 5 → Companion)) := [
  (opImm32 ++ 0b0000000#7 ++ 0b001#3, .slliw),
  (opImm32 ++ 0b0000000#7 ++ 0b101#3, .srliw),
  (opImm32 ++ 0b0100000#7 ++ 0b101#3, .sraiw)]

/-- Rows with the 12-bit immediate in bits 31:20, by opcode and funct3. -/
def companionIRows : List (BitVec 10 × (Reg → Reg → BitVec 12 → Companion)) := [
  (opImm ++ 0b000#3, .addi),
  (opImm ++ 0b010#3, .slti),
  (opImm ++ 0b011#3, .sltiu),
  (opImm ++ 0b100#3, .xori),
  (opImm ++ 0b110#3, .ori),
  (opImm ++ 0b111#3, .andi),
  (opImm32 ++ 0b000#3, .addiw),
  (0b0000011#7 ++ 0b000#3, .lb),
  (0b0000011#7 ++ 0b001#3, .lh),
  (0b0000011#7 ++ 0b010#3, .lw),
  (0b0000011#7 ++ 0b011#3, .ld),
  (0b0000011#7 ++ 0b100#3, .lbu),
  (0b0000011#7 ++ 0b101#3, .lhu),
  (0b0000011#7 ++ 0b110#3, .lwu),
  (0b0001111#7 ++ 0b000#3, .fence),
  (0b0001111#7 ++ 0b001#3, .fenceI)]

/-- Store rows, by opcode and funct3: the immediate stands in bits 31:25 and 11:7. -/
def companionSRows : List (BitVec 10 × (Reg → Reg → BitVec 12 → Companion)) := [
  (0b0100011#7 ++ 0b000#3, .sb),
  (0b0100011#7 ++ 0b001#3, .sh),
  (0b0100011#7 ++ 0b010#3, .sw),
  (0b0100011#7 ++ 0b011#3, .sd)]

/-- Branch rows, by opcode and funct3: offset bits 12, 11, 10:5, 4:1 stand in bits 31, 7, 30:25, 11:8. -/
def companionBRows : List (BitVec 10 × (Reg → Reg → BitVec 12 → Companion)) := [
  (0b1100011#7 ++ 0b000#3, .beq),
  (0b1100011#7 ++ 0b001#3, .bne),
  (0b1100011#7 ++ 0b100#3, .blt),
  (0b1100011#7 ++ 0b101#3, .bge),
  (0b1100011#7 ++ 0b110#3, .bltu)]

/-- The immediate of a store: bits 31:25 above bits 11:7. -/
def storeImm (w : InstrWord) : BitVec 12 := w.extractLsb' 25 7 ++ w.extractLsb' 7 5

/-- The offset of a branch divided by two: bits 31, 7, 30:25, 11:8. -/
def branchOffset (w : InstrWord) : BitVec 12 :=
  w.extractLsb' 31 1 ++ w.extractLsb' 7 1 ++ w.extractLsb' 25 6 ++ w.extractLsb' 8 4

/-- The companion instruction of a word, whatever the XLEN. -/
def Companion.decodeRow (w : InstrWord) : Option Companion :=
  let rd := rdOf w
  let rs1 := rs1Of w
  let rs2 := rs2Of w
  let op := opcodeOf w
  let f3 := funct3Of w
  if w = 0x00008067#32 then some .ret
  else if op = 0b0110111#7 then some (.lui rd (w.extractLsb' 12 20))
  else
    match companionRRows.lookup (op ++ funct7Of w ++ f3) with
    | some mk => some (mk rd rs1 rs2)
    | none =>
      match companionShamtwRows.lookup (op ++ funct7Of w ++ f3) with
      | some mk => some (mk rd rs1 (imm5Of w))
      | none =>
        match companionIRows.lookup (op ++ f3) with
        | some mk => some (mk rd rs1 (funct12Of w))
        | none =>
          match companionSRows.lookup (op ++ f3) with
          | some mk => some (mk rs1 rs2 (storeImm w))
          | none => (companionBRows.lookup (op ++ f3)).map fun mk => mk rs1 rs2 (branchOffset w)

/-- The companion instruction of a word on a machine with this XLEN. -/
def Companion.decode (x : Xlen) (w : InstrWord) : Option Companion :=
  match Companion.decodeRow w with
  | none => none
  | some c => if x = .rv32 ∧ c.rv64Only then none else some c

/-! ## Encoding -/

/-- The word of a store: the immediate in bits 31:25 and 11:7. -/
def storeWord (f3 : BitVec 3) (rs1 rs2 : Reg) (imm : BitVec 12) : InstrWord :=
  imm.extractLsb' 5 7 ++ regBits rs2 ++ regBits rs1 ++ f3 ++ imm.extractLsb' 0 5 ++ 0b0100011#7

/-- The word of a branch: offset bits 12, 10:5 in bits 31:25 and offset bits 4:1, 11 in bits 11:7. -/
def branchWord (f3 : BitVec 3) (rs1 rs2 : Reg) (offset : BitVec 12) : InstrWord :=
  offset.extractLsb' 11 1 ++ offset.extractLsb' 4 6 ++ regBits rs2 ++ regBits rs1 ++ f3 ++
    offset.extractLsb' 0 4 ++ offset.extractLsb' 10 1 ++ 0b1100011#7

/-- The word of a companion instruction. -/
def Companion.encode : Companion → InstrWord
  | .add rd rs1 rs2 => rType 0b0000000#7 0b000#3 opOp rd rs1 rs2
  | .sub rd rs1 rs2 => rType 0b0100000#7 0b000#3 opOp rd rs1 rs2
  | .slt rd rs1 rs2 => rType 0b0000000#7 0b010#3 opOp rd rs1 rs2
  | .sltu rd rs1 rs2 => rType 0b0000000#7 0b011#3 opOp rd rs1 rs2
  | .mul rd rs1 rs2 => rType 0b0000001#7 0b000#3 opOp rd rs1 rs2
  | .mulh rd rs1 rs2 => rType 0b0000001#7 0b001#3 opOp rd rs1 rs2
  | .addw rd rs1 rs2 => rType 0b0000000#7 0b000#3 op32 rd rs1 rs2
  | .subw rd rs1 rs2 => rType 0b0100000#7 0b000#3 op32 rd rs1 rs2
  | .sllw rd rs1 rs2 => rType 0b0000000#7 0b001#3 op32 rd rs1 rs2
  | .srlw rd rs1 rs2 => rType 0b0000000#7 0b101#3 op32 rd rs1 rs2
  | .sraw rd rs1 rs2 => rType 0b0100000#7 0b101#3 op32 rd rs1 rs2
  | .slliw rd rs1 imm => shamtwType 0b0000000#7 0b001#3 opImm32 rd rs1 imm
  | .srliw rd rs1 imm => shamtwType 0b0000000#7 0b101#3 opImm32 rd rs1 imm
  | .sraiw rd rs1 imm => shamtwType 0b0100000#7 0b101#3 opImm32 rd rs1 imm
  | .lui rd imm20 => imm20 ++ regBits rd ++ 0b0110111#7
  | .addi rd rs1 imm => wordOf imm rs1 0b000#3 rd opImm
  | .slti rd rs1 imm => wordOf imm rs1 0b010#3 rd opImm
  | .sltiu rd rs1 imm => wordOf imm rs1 0b011#3 rd opImm
  | .xori rd rs1 imm => wordOf imm rs1 0b100#3 rd opImm
  | .ori rd rs1 imm => wordOf imm rs1 0b110#3 rd opImm
  | .andi rd rs1 imm => wordOf imm rs1 0b111#3 rd opImm
  | .addiw rd rs1 imm => wordOf imm rs1 0b000#3 rd opImm32
  | .lb rd rs1 imm => wordOf imm rs1 0b000#3 rd 0b0000011#7
  | .lh rd rs1 imm => wordOf imm rs1 0b001#3 rd 0b0000011#7
  | .lw rd rs1 imm => wordOf imm rs1 0b010#3 rd 0b0000011#7
  | .ld rd rs1 imm => wordOf imm rs1 0b011#3 rd 0b0000011#7
  | .lbu rd rs1 imm => wordOf imm rs1 0b100#3 rd 0b0000011#7
  | .lhu rd rs1 imm => wordOf imm rs1 0b101#3 rd 0b0000011#7
  | .lwu rd rs1 imm => wordOf imm rs1 0b110#3 rd 0b0000011#7
  | .sb rs1 rs2 imm => storeWord 0b000#3 rs1 rs2 imm
  | .sh rs1 rs2 imm => storeWord 0b001#3 rs1 rs2 imm
  | .sw rs1 rs2 imm => storeWord 0b010#3 rs1 rs2 imm
  | .sd rs1 rs2 imm => storeWord 0b011#3 rs1 rs2 imm
  | .beq rs1 rs2 offset => branchWord 0b000#3 rs1 rs2 offset
  | .bne rs1 rs2 offset => branchWord 0b001#3 rs1 rs2 offset
  | .blt rs1 rs2 offset => branchWord 0b100#3 rs1 rs2 offset
  | .bge rs1 rs2 offset => branchWord 0b101#3 rs1 rs2 offset
  | .bltu rs1 rs2 offset => branchWord 0b110#3 rs1 rs2 offset
  | .ret => 0x00008067#32
  | .fence rd rs1 imm => wordOf imm rs1 0b000#3 rd 0b0001111#7
  | .fenceI rd rs1 imm => wordOf imm rs1 0b001#3 rd 0b0001111#7

/-! ## Operations the companion instructions share -/

/-- `x[rs1] + sext(imm12)`: the address of a load or store, the sum of addi (R381, R388). -/
def State.plusImm (s : State) (rs1 : Reg) (imm : BitVec 12) : s.XWord := s.x rs1 + imm.signExtend _

/-- A load of n bytes: the value they hold is `f` of it as a number (R42, R43, R388); AccessFault outside the valid set
(60 R423). -/
def State.load (s : State) (rd rs1 : Reg) (imm : BitVec 12) (n : Nat) (f : Nat → s.XWord) : Result :=
  match Memory.readAll s.mem (s.span (s.plusImm rs1 imm) n) with
  | .error a => raiseFault (.accessFault s.pc.toNat a)
  | .ok bs => s.done rd (f (leValue bs))

/-- A store of the low n bytes of `x[rs2]` (R42, R43, R388). It writes none of them if one address is outside the valid
set (60 R423), and is refused if one has been fetched as program text (R50, 92 D14; log entry 6). -/
def State.store (s : State) (rs1 rs2 : Reg) (imm : BitVec 12) (n : Nat) : Result :=
  match Memory.lowestInvalid s.mem (s.span (s.plusImm rs1 imm) n) with
  | some a => raiseFault (.accessFault s.pc.toNat a)
  | none =>
    match lowestIn s.fetched (s.span (s.plusImm rs1 imm) n) with
    | some a => .refused (.storeIntoFetchedText s.pc.toNat a)
    | none =>
      let t := s.storeBytes (s.span (s.plusImm rs1 imm) n) (leBytes n (s.x rs2).toNat)
      .next (t.jump (s.pc + 4#_))

/-- A conditional branch: to `pc + offset` if the condition holds, else to `pc + 4` (R389). A target that is no multiple
of 4 faults at its fetch (60 R422). -/
def State.branch (s : State) (condition : Bool) (offset : BitVec 12) : Result :=
  .next (s.jump (s.pc + if condition then (offset ++ 0#1).signExtend _ else 4#_))

/-- A fence: with one hart and a memory without buffers it does nothing but advance the pc (20_memory.md R48). -/
def State.fence (s : State) : Result := .next (s.jump (s.pc + 4#_))

/-! ## Meanings -/

/-- Execute one companion instruction. It does not look at XLEN for the RV64-only ones, since the decoder gives those on RV64
only (log entry 12). -/
def Companion.exec (c : Companion) (s : State) : Result :=
  match c with
  | .add rd rs1 rs2 => s.done rd (s.x rs1 + s.x rs2)
  | .sub rd rs1 rs2 => s.done rd (s.x rs1 - s.x rs2)
  | .slt rd rs1 rs2 => s.done rd (if lessSigned (s.x rs1) (s.x rs2) then 1#_ else 0#_)
  | .sltu rd rs1 rs2 => s.done rd (if lessUnsigned (s.x rs1) (s.x rs2) then 1#_ else 0#_)
  | .mul rd rs1 rs2 => s.done rd (BitVec.ofInt _ ((s.x rs1).toInt * (s.x rs2).toInt))
  | .mulh rd rs1 rs2 => s.done rd (BitVec.ofInt _ ((s.x rs1).toInt * (s.x rs2).toInt / 2 ^ s.xlen.bits))
  | .addw rd rs1 rs2 => s.doneW rd (s.xw rs1 + s.xw rs2)
  | .subw rd rs1 rs2 => s.doneW rd (s.xw rs1 - s.xw rs2)
  | .sllw rd rs1 rs2 => s.doneW rd (s.xw rs1 <<< shamt 32 (s.xw rs2))
  | .srlw rd rs1 rs2 => s.doneW rd (s.xw rs1 >>> shamt 32 (s.xw rs2))
  | .sraw rd rs1 rs2 => s.doneW rd ((s.xw rs1).sshiftRight (shamt 32 (s.xw rs2)))
  | .addi rd rs1 imm => s.done rd (s.plusImm rs1 imm)
  | .slti rd rs1 imm => s.done rd (if lessSigned (s.x rs1) (imm.signExtend _) then 1#_ else 0#_)
  | .sltiu rd rs1 imm => s.done rd (if lessUnsigned (s.x rs1) (imm.signExtend _) then 1#_ else 0#_)
  | .xori rd rs1 imm => s.done rd (s.x rs1 ^^^ imm.signExtend _)
  | .ori rd rs1 imm => s.done rd (s.x rs1 ||| imm.signExtend _)
  | .andi rd rs1 imm => s.done rd (s.x rs1 &&& imm.signExtend _)
  | .addiw rd rs1 imm => s.doneW rd (lowWord (s.plusImm rs1 imm))
  | .slliw rd rs1 imm => s.doneW rd (s.xw rs1 <<< imm.toNat)
  | .srliw rd rs1 imm => s.doneW rd (s.xw rs1 >>> imm.toNat)
  | .sraiw rd rs1 imm => s.doneW rd ((s.xw rs1).sshiftRight imm.toNat)
  | .lui rd imm20 => s.doneW rd (imm20 ++ 0#12)
  | .lb rd rs1 imm => s.load rd rs1 imm 1 fun v => (BitVec.ofNat 8 v).signExtend _
  | .lh rd rs1 imm => s.load rd rs1 imm 2 fun v => (BitVec.ofNat 16 v).signExtend _
  | .lw rd rs1 imm => s.load rd rs1 imm 4 fun v => (BitVec.ofNat 32 v).signExtend _
  | .ld rd rs1 imm => s.load rd rs1 imm 8 fun v => BitVec.ofNat _ v
  | .lbu rd rs1 imm => s.load rd rs1 imm 1 fun v => BitVec.ofNat _ v
  | .lhu rd rs1 imm => s.load rd rs1 imm 2 fun v => BitVec.ofNat _ v
  | .lwu rd rs1 imm => s.load rd rs1 imm 4 fun v => BitVec.ofNat _ v
  | .sb rs1 rs2 imm => s.store rs1 rs2 imm 1
  | .sh rs1 rs2 imm => s.store rs1 rs2 imm 2
  | .sw rs1 rs2 imm => s.store rs1 rs2 imm 4
  | .sd rs1 rs2 imm => s.store rs1 rs2 imm 8
  | .beq rs1 rs2 offset => s.branch (s.x rs1 = s.x rs2) offset
  | .bne rs1 rs2 offset => s.branch (s.x rs1 ≠ s.x rs2) offset
  | .blt rs1 rs2 offset => s.branch (lessSigned (s.x rs1) (s.x rs2)) offset
  | .bge rs1 rs2 offset => s.branch (!lessSigned (s.x rs1) (s.x rs2)) offset
  | .bltu rs1 rs2 offset => s.branch (lessUnsigned (s.x rs1) (s.x rs2)) offset
  | .ret => .next (s.jump (s.x 1 &&& ~~~1#_))
  | .fence _ _ _ => s.fence
  | .fenceI _ _ _ => s.fence

end Sys2Proof.Machine
end

