-- ==== Sys2Proof/Machine/Address.lean ====
section
/-!
DEFINITION. Address calculation and zero-extended-word instructions (47_address_and_uw.md).
-/
namespace Sys2Proof.Machine

/-! ## Operations -/

/-- `((a << k) + b) mod 2^N` (R320 to R325). -/
def shiftAdd {n : Nat} (k : Nat) (a b : BitVec n) : BitVec n := (a <<< k) + b

/-! ## Meanings -/

/-- sh1add (R320). -/
def execSh1add (rd rs1 rs2 : Reg) (s : State) : Result := s.done rd (shiftAdd 1 (s.x rs1) (s.x rs2))

/-- sh2add (R321). -/
def execSh2add (rd rs1 rs2 : Reg) (s : State) : Result := s.done rd (shiftAdd 2 (s.x rs1) (s.x rs2))

/-- sh3add (R322). -/
def execSh3add (rd rs1 rs2 : Reg) (s : State) : Result := s.done rd (shiftAdd 3 (s.x rs1) (s.x rs2))

/-- sh1add.uw (R323). -/
def execSh1addUw (rd rs1 rs2 : Reg) (s : State) : Result :=
  s.onRv64 (.sh1addUw rd rs1 rs2) (s.done rd (shiftAdd 1 (zextWord (s.x rs1)) (s.x rs2)))

/-- sh2add.uw (R324). -/
def execSh2addUw (rd rs1 rs2 : Reg) (s : State) : Result :=
  s.onRv64 (.sh2addUw rd rs1 rs2) (s.done rd (shiftAdd 2 (zextWord (s.x rs1)) (s.x rs2)))

/-- sh3add.uw (R325). -/
def execSh3addUw (rd rs1 rs2 : Reg) (s : State) : Result :=
  s.onRv64 (.sh3addUw rd rs1 rs2) (s.done rd (shiftAdd 3 (zextWord (s.x rs1)) (s.x rs2)))

/-- add.uw (R326). -/
def execAddUw (rd rs1 rs2 : Reg) (s : State) : Result :=
  s.onRv64 (.addUw rd rs1 rs2) (s.done rd (zextWord (s.x rs1) + s.x rs2))

/-- slli.uw (R327). -/
def execSlliUw (rd rs1 : Reg) (imm : BitVec 6) (s : State) : Result :=
  s.onRv64 (.slliUw rd rs1 imm) (s.done rd (zextWord (s.x rs1) <<< shamt s.xlen.bits imm))

end Sys2Proof.Machine
end

