-- ==== Sys2Proof/Machine/BaseIsa.lean ====
section
/-!
DEFINITION. The nine base-ISA instructions whose encodings the source repeats (49_base_isa_companion.md R371 to R379).
-/
namespace Sys2Proof.Machine

/-- and (R371). -/
def execAnd (rd rs1 rs2 : Reg) (s : State) : Result := s.done rd (s.x rs1 &&& s.x rs2)

/-- or (R372). -/
def execOr (rd rs1 rs2 : Reg) (s : State) : Result := s.done rd (s.x rs1 ||| s.x rs2)

/-- xor (R373). -/
def execXor (rd rs1 rs2 : Reg) (s : State) : Result := s.done rd (s.x rs1 ^^^ s.x rs2)

/-- sll (R374). -/
def execSll (rd rs1 rs2 : Reg) (s : State) : Result := s.done rd (s.x rs1 <<< shamt s.xlen.bits (s.x rs2))

/-- srl (R375). -/
def execSrl (rd rs1 rs2 : Reg) (s : State) : Result := s.done rd (s.x rs1 >>> shamt s.xlen.bits (s.x rs2))

/-- sra (R376). -/
def execSra (rd rs1 rs2 : Reg) (s : State) : Result := s.done rd ((s.x rs1).sshiftRight (shamt s.xlen.bits (s.x rs2)))

/-- slli (R377). -/
def execSlli (rd rs1 : Reg) (imm : BitVec 6) (s : State) : Result := s.done rd (s.x rs1 <<< shamt s.xlen.bits imm)

/-- srli (R378). -/
def execSrli (rd rs1 : Reg) (imm : BitVec 6) (s : State) : Result := s.done rd (s.x rs1 >>> shamt s.xlen.bits imm)

/-- srai (R379). -/
def execSrai (rd rs1 : Reg) (imm : BitVec 6) (s : State) : Result :=
  s.done rd ((s.x rs1).sshiftRight (shamt s.xlen.bits imm))

end Sys2Proof.Machine
end

