-- ==== Sys2Proof/Machine/Basic.lean ====
section
/-!
DEFINITION. Count, logic-with-negate, pack, min/max, sign-extend (40_basic_count_logic_pack_minmax_sext.md).
-/
namespace Sys2Proof.Machine

/-! ## Operations -/

/-- `clz_N(v)`: the number of 0 bits before the first 1 from the most significant end, N if there is none (R100). -/
def clz {n : Nat} (v : BitVec n) : Nat :=
  ((List.range n).find? fun count => v.getLsbD (n - 1 - count)).getD n

/-- `ctz_N(v)`: the number of 0 bits below the lowest 1, N if there is none (R100). -/
def ctz {n : Nat} (v : BitVec n) : Nat :=
  ((List.range n).find? fun count => v.getLsbD count).getD n

/-- `cpop_N(v)`: the number of 1 bits (R100). -/
def cpop {n : Nat} (v : BitVec n) : Nat := (List.range n).countP fun index => v.getLsbD index

/-- `pack_N(a, b) = {b[N/2-1:0], a[N/2-1:0]}` (R100). -/
def pack {n : Nat} (a b : BitVec n) : BitVec n := joinHalves n (b.setWidth _) (a.setWidth _)

/-- `packu_N(a, b) = {b[N-1:N/2], a[N-1:N/2]}` (R100). -/
def packu {n : Nat} (a b : BitVec n) : BitVec n :=
  joinHalves n (b.extractLsb' (n / 2) _) (a.extractLsb' (n / 2) _)

/-- `packh_N(a, b)`: `{b[7:0], a[7:0]}` zero-extended (R100). -/
def packh {n : Nat} (a b : BitVec n) : BitVec n := (b.setWidth 8 ++ a.setWidth 8).setWidth n

/-! ## Meanings -/

/-- clz (R101). -/
def execClz (rd rs1 : Reg) (s : State) : Result := s.done rd (BitVec.ofNat _ (clz (s.x rs1)))

/-- ctz (R102). -/
def execCtz (rd rs1 : Reg) (s : State) : Result := s.done rd (BitVec.ofNat _ (ctz (s.x rs1)))

/-- clzw (R103). -/
def execClzw (rd rs1 : Reg) (s : State) : Result :=
  s.onRv64 (.clzw rd rs1) (s.doneW rd (BitVec.ofNat 32 (clz (s.xw rs1))))

/-- ctzw (R104). -/
def execCtzw (rd rs1 : Reg) (s : State) : Result :=
  s.onRv64 (.ctzw rd rs1) (s.doneW rd (BitVec.ofNat 32 (ctz (s.xw rs1))))

/-- cpop (R105). -/
def execCpop (rd rs1 : Reg) (s : State) : Result := s.done rd (BitVec.ofNat _ (cpop (s.x rs1)))

/-- cpopw (R106). -/
def execCpopw (rd rs1 : Reg) (s : State) : Result :=
  s.onRv64 (.cpopw rd rs1) (s.doneW rd (BitVec.ofNat 32 (cpop (s.xw rs1))))

/-- andn (R107). -/
def execAndn (rd rs1 rs2 : Reg) (s : State) : Result := s.done rd (s.x rs1 &&& ~~~s.x rs2)

/-- orn (R108). -/
def execOrn (rd rs1 rs2 : Reg) (s : State) : Result := s.done rd (s.x rs1 ||| ~~~s.x rs2)

/-- xnor (R109). -/
def execXnor (rd rs1 rs2 : Reg) (s : State) : Result := s.done rd (s.x rs1 ^^^ ~~~s.x rs2)

/-- pack (R110). -/
def execPack (rd rs1 rs2 : Reg) (s : State) : Result := s.done rd (pack (s.x rs1) (s.x rs2))

/-- packu (R111). -/
def execPacku (rd rs1 rs2 : Reg) (s : State) : Result := s.done rd (packu (s.x rs1) (s.x rs2))

/-- packh (R112). -/
def execPackh (rd rs1 rs2 : Reg) (s : State) : Result := s.done rd (packh (s.x rs1) (s.x rs2))

/-- packw (R113). -/
def execPackw (rd rs1 rs2 : Reg) (s : State) : Result :=
  s.onRv64 (.packw rd rs1 rs2) (s.doneW rd (pack (s.xw rs1) (s.xw rs2)))

/-- packuw (R114). -/
def execPackuw (rd rs1 rs2 : Reg) (s : State) : Result :=
  s.onRv64 (.packuw rd rs1 rs2) (s.doneW rd (packu (s.xw rs1) (s.xw rs2)))

/-- min (R115). -/
def execMin (rd rs1 rs2 : Reg) (s : State) : Result :=
  s.done rd (if lessSigned (s.x rs1) (s.x rs2) then s.x rs1 else s.x rs2)

/-- minu (R116). -/
def execMinu (rd rs1 rs2 : Reg) (s : State) : Result :=
  s.done rd (if lessUnsigned (s.x rs1) (s.x rs2) then s.x rs1 else s.x rs2)

/-- max (R117). -/
def execMax (rd rs1 rs2 : Reg) (s : State) : Result :=
  s.done rd (if lessSigned (s.x rs2) (s.x rs1) then s.x rs1 else s.x rs2)

/-- maxu (R118). -/
def execMaxu (rd rs1 rs2 : Reg) (s : State) : Result :=
  s.done rd (if lessUnsigned (s.x rs2) (s.x rs1) then s.x rs1 else s.x rs2)

/-- sext.b (R119). -/
def execSextB (rd rs1 : Reg) (s : State) : Result := s.done rd (sextLow 8 (s.x rs1))

/-- sext.h (R120). -/
def execSextH (rd rs1 : Reg) (s : State) : Result := s.done rd (sextLow 16 (s.x rs1))

end Sys2Proof.Machine
end

