-- ==== Sys2Proof/Machine/BitField.lean ====
section
/-!
DEFINITION. Bit-field place, bit extract, bit deposit (44_bfp_bext_bdep.md).
-/
namespace Sys2Proof.Machine

/-! ## Operations -/

/-- The configuration half of a bfp control word, as a number: the upper half of `b`, or on RV64 with SEL = 10 its own
upper half (R240). -/
def bfpConfig {n : Nat} (b : BitVec n) : Nat :=
  let cfg := b.toNat / 2 ^ (n / 2)
  if n = 64 ∧ cfg / 2 ^ 30 = 0b10 then cfg / 2 ^ 16 else cfg

/-- LEN: bits 8 and up of the configuration; 0 encodes N/2 (R240). -/
def bfpLength {n : Nat} (b : BitVec n) : Nat :=
  let len := bfpConfig b / 2 ^ 8 % (n / 2)
  if len = 0 then n / 2 else len

/-- OFF: the low log2(N) bits of the configuration (R240). -/
def bfpOffset {n : Nat} (b : BitVec n) : Nat := bfpConfig b % n

/-- `bfp_N(a, b)`: the low LEN bits of `b` in place of bits OFF+LEN-1 : OFF of `a`, cut off at bit N-1 (R240). -/
def bfp {n : Nat} (a b : BitVec n) : BitVec n :=
  let mask := BitVec.ofNat n (2 ^ bfpLength b - 1) <<< bfpOffset b
  ((b <<< bfpOffset b) &&& mask) ||| (a &&& ~~~mask)

/-- `bext_N(a, b)` of Zbe: the bits of `a` at the set bits of `b`, gathered at the least significant end (R245). -/
def bext {n : Nat} (a b : BitVec n) : BitVec n :=
  ((List.range n).foldl
    (fun (r : BitVec n × Nat) i =>
      if b.getLsbD i then (if a.getLsbD i then r.1 ||| (1#n <<< r.2) else r.1, r.2 + 1) else r)
    (0#n, 0)).1

/-- `bdep_N(a, b)`: the low bits of `a` scattered to the set bits of `b` (R245). -/
def bdep {n : Nat} (a b : BitVec n) : BitVec n :=
  ((List.range n).foldl
    (fun (r : BitVec n × Nat) i =>
      if b.getLsbD i then (if a.getLsbD r.2 then r.1 ||| (1#n <<< i) else r.1, r.2 + 1) else r)
    (0#n, 0)).1

/-! ## Meanings -/

/-- bfp (R241). -/
def execBfp (rd rs1 rs2 : Reg) (s : State) : Result := s.done rd (bfp (s.x rs1) (s.x rs2))

/-- bfpw (R242). -/
def execBfpw (rd rs1 rs2 : Reg) (s : State) : Result :=
  s.onRv64 (.bfpw rd rs1 rs2) (s.doneW rd (bfp (s.xw rs1) (s.xw rs2)))

/-- bext[Zbe] (R246). -/
def execBextZbe (rd rs1 rs2 : Reg) (s : State) : Result := s.done rd (bext (s.x rs1) (s.x rs2))

/-- bdep (R247). -/
def execBdep (rd rs1 rs2 : Reg) (s : State) : Result := s.done rd (bdep (s.x rs1) (s.x rs2))

/-- bextw[Zbe] (R248). -/
def execBextwZbe (rd rs1 rs2 : Reg) (s : State) : Result :=
  s.onRv64 (.bextwZbe rd rs1 rs2) (s.doneW rd (bext (s.xw rs1) (s.xw rs2)))

/-- bdepw (R249). -/
def execBdepw (rd rs1 rs2 : Reg) (s : State) : Result :=
  s.onRv64 (.bdepw rd rs1 rs2) (s.doneW rd (bdep (s.xw rs1) (s.xw rs2)))

end Sys2Proof.Machine
end

