-- ==== Sys2Proof/Machine/Clmul.lean ====
section
/-!
DEFINITION. Carry-less multiply, CRC, bit matrix (45_clmul_crc_bmat.md).
-/
namespace Sys2Proof.Machine

/-! ## Operations -/

/-- `P(a, b)`: the carry-less product of R260, in 2N bits. -/
def clmulProduct {n : Nat} (a b : BitVec n) : BitVec (2 * n) :=
  (List.range n).foldl (fun p i => if b.getLsbD i then p ^^^ (a.setWidth (2 * n) <<< i) else p) 0#(2 * n)

/-- `clmul_N(a, b) = P(a, b)[N-1 : 0]` (R260). -/
def clmul {n : Nat} (a b : BitVec n) : BitVec n := (clmulProduct a b).extractLsb' 0 n

/-- `clmulh_N(a, b) = P(a, b)[2N-1 : N]` (R260). -/
def clmulh {n : Nat} (a b : BitVec n) : BitVec n := (clmulProduct a b).extractLsb' n n

/-- `clmulr_N(a, b) = P(a, b)[2N-2 : N-1]` (R260). -/
def clmulr {n : Nat} (a b : BitVec n) : BitVec n := (clmulProduct a b).extractLsb' (n - 1) n

/-- The polynomial of CRC32 (R270). -/
def crc32Poly : BitVec 32 := 0xEDB88320#32

/-- The polynomial of CRC32C (R270). -/
def crc32cPoly : BitVec 32 := 0x82F63B78#32

/-- `crc_N(x, nbits, POLY)`: nbits rounds, each a shift right by one and, if the bit shifted out is 1, an exclusive or with
the polynomial zero-extended to N bits (R270). The state is the whole register. -/
def crc {n : Nat} (poly : BitVec 32) : Nat → BitVec n → BitVec n
  | 0, x => x
  | k + 1, x => crc poly k ((x >>> 1) ^^^ (if x.getLsbD 0 then poly.setWidth n else 0#n))

/-- Element (r, c) of the matrix a 64-bit word is read as: bit 8r + c (R285). -/
def bmatElem (m : BitVec 64) (r c : Nat) : Bool := m.getLsbD (8 * r + c)

/-- The word of the matrix whose element (r, c) is `f r c` (R285). -/
def bmatOf (f : Nat → Nat → Bool) : BitVec 64 := bitsOf 64 fun i => f (i / 8) (i % 8)

/-- `bmatflip`: the transpose (R285). -/
def bmatflip (a : BitVec 64) : BitVec 64 := bmatOf fun r c => bmatElem a c r

/-- `bmatxor`: the matrix product with exclusive or as addition (R285). -/
def bmatxor (a b : BitVec 64) : BitVec 64 :=
  bmatOf fun r c => (List.range 8).foldl (fun acc k => acc != (bmatElem a r k && bmatElem b k c)) false

/-- `bmator`: the matrix product with or as addition (R285). -/
def bmator (a b : BitVec 64) : BitVec 64 :=
  bmatOf fun r c => (List.range 8).any fun k => bmatElem a r k && bmatElem b k c

/-! ## Meanings -/

/-- clmul (R261). -/
def execClmul (rd rs1 rs2 : Reg) (s : State) : Result := s.done rd (clmul (s.x rs1) (s.x rs2))

/-- clmulh (R262). -/
def execClmulh (rd rs1 rs2 : Reg) (s : State) : Result := s.done rd (clmulh (s.x rs1) (s.x rs2))

/-- clmulr (R263). -/
def execClmulr (rd rs1 rs2 : Reg) (s : State) : Result := s.done rd (clmulr (s.x rs1) (s.x rs2))

/-- crc32.b (R271). -/
def execCrc32B (rd rs1 : Reg) (s : State) : Result := s.done rd (crc crc32Poly 8 (s.x rs1))

/-- crc32.h (R272). -/
def execCrc32H (rd rs1 : Reg) (s : State) : Result := s.done rd (crc crc32Poly 16 (s.x rs1))

/-- crc32.w (R273). -/
def execCrc32W (rd rs1 : Reg) (s : State) : Result := s.done rd (crc crc32Poly 32 (s.x rs1))

/-- crc32.d (R274). -/
def execCrc32D (rd rs1 : Reg) (s : State) : Result :=
  s.onRv64 (.crc32D rd rs1) (s.done rd (crc crc32Poly 64 (s.x rs1)))

/-- crc32c.b (R275). -/
def execCrc32cB (rd rs1 : Reg) (s : State) : Result := s.done rd (crc crc32cPoly 8 (s.x rs1))

/-- crc32c.h (R276). -/
def execCrc32cH (rd rs1 : Reg) (s : State) : Result := s.done rd (crc crc32cPoly 16 (s.x rs1))

/-- crc32c.w (R277). -/
def execCrc32cW (rd rs1 : Reg) (s : State) : Result := s.done rd (crc crc32cPoly 32 (s.x rs1))

/-- crc32c.d (R278). -/
def execCrc32cD (rd rs1 : Reg) (s : State) : Result :=
  s.onRv64 (.crc32cD rd rs1) (s.done rd (crc crc32cPoly 64 (s.x rs1)))

/-- bmatflip (R286). -/
def execBmatflip (rd rs1 : Reg) (s : State) : Result :=
  s.onRv64 (.bmatflip rd rs1) (s.done rd ((bmatflip ((s.x rs1).setWidth 64)).setWidth _))

/-- bmatxor (R287). -/
def execBmatxor (rd rs1 rs2 : Reg) (s : State) : Result :=
  s.onRv64 (.bmatxor rd rs1 rs2) (s.done rd ((bmatxor ((s.x rs1).setWidth 64) ((s.x rs2).setWidth 64)).setWidth _))

/-- bmator (R288). -/
def execBmator (rd rs1 rs2 : Reg) (s : State) : Result :=
  s.onRv64 (.bmator rd rs1 rs2) (s.done rd ((bmator ((s.x rs1).setWidth 64) ((s.x rs2).setWidth 64)).setWidth _))

end Sys2Proof.Machine
end

