-- ==== Sys2Proof/Machine/Rotate.lean ====
section
/-!
DEFINITION. Rotates, generalized reverse, generalized OR-combine (42_rotate_grev_gorc.md).
-/
namespace Sys2Proof.Machine

/-! ## Operations -/

/-- `rol_N(a, b)` (R170). -/
def rol {n m : Nat} (a : BitVec n) (b : BitVec m) : BitVec n :=
  (a <<< shamt n b) ||| (a >>> ((n - shamt n b) % n))

/-- `ror_N(a, b)` (R170). -/
def ror {n m : Nat} (a : BitVec n) (b : BitVec m) : BitVec n :=
  (a >>> shamt n b) ||| (a <<< ((n - shamt n b) % n))

/-- The mask `L_k` of R180 at 64 bits; at 32 bits it is the low half. -/
def grevMaskL : Nat → BitVec 64
  | 0 => 0x5555555555555555#64
  | 1 => 0x3333333333333333#64
  | 2 => 0x0F0F0F0F0F0F0F0F#64
  | 3 => 0x00FF00FF00FF00FF#64
  | 4 => 0x0000FFFF0000FFFF#64
  | _ => 0x00000000FFFFFFFF#64

/-- The mask `H_k` of R180 at 64 bits; at 32 bits it is the low half. -/
def grevMaskH : Nat → BitVec 64
  | 0 => 0xAAAAAAAAAAAAAAAA#64
  | 1 => 0xCCCCCCCCCCCCCCCC#64
  | 2 => 0xF0F0F0F0F0F0F0F0#64
  | 3 => 0xFF00FF00FF00FF00#64
  | 4 => 0xFFFF0000FFFF0000#64
  | _ => 0xFFFFFFFF00000000#64

/-- Every adjacent pair of 2^k bits of `x` swapped: what one stage moves (R180, R190). -/
def swapPairs {n : Nat} (k : Nat) (x : BitVec n) : BitVec n :=
  ((x &&& (grevMaskL k).setWidth n) <<< 2 ^ k) ||| ((x &&& (grevMaskH k).setWidth n) >>> 2 ^ k)

/-- `grev_N(a, b)`: stages 0 .. log2(N)-1, each swapping where its bit of `b` is 1 (R180). -/
def grev {n m : Nat} (a : BitVec n) (b : BitVec m) : BitVec n :=
  (List.range (logWidth n)).foldl (fun x k => if b.getLsbD k then swapPairs k x else x) a

/-- `gorc_N(a, b)`: the stages of grev, each or-ing the swapped word into the word (R190). -/
def gorc {n m : Nat} (a : BitVec n) (b : BitVec m) : BitVec n :=
  (List.range (logWidth n)).foldl (fun x k => if b.getLsbD k then x ||| swapPairs k x else x) a

/-! ## Meanings -/

/-- rol (R171). -/
def execRol (rd rs1 rs2 : Reg) (s : State) : Result := s.done rd (rol (s.x rs1) (s.x rs2))

/-- ror (R172). -/
def execRor (rd rs1 rs2 : Reg) (s : State) : Result := s.done rd (ror (s.x rs1) (s.x rs2))

/-- rori (R173). -/
def execRori (rd rs1 : Reg) (imm : BitVec 6) (s : State) : Result := s.done rd (ror (s.x rs1) imm)

/-- rolw (R174). -/
def execRolw (rd rs1 rs2 : Reg) (s : State) : Result :=
  s.onRv64 (.rolw rd rs1 rs2) (s.doneW rd (rol (s.xw rs1) (s.x rs2)))

/-- rorw (R175). -/
def execRorw (rd rs1 rs2 : Reg) (s : State) : Result :=
  s.onRv64 (.rorw rd rs1 rs2) (s.doneW rd (ror (s.xw rs1) (s.x rs2)))

/-- roriw (R176). -/
def execRoriw (rd rs1 : Reg) (imm : BitVec 5) (s : State) : Result :=
  s.onRv64 (.roriw rd rs1 imm) (s.doneW rd (ror (s.xw rs1) imm))

/-- grev (R181). -/
def execGrev (rd rs1 rs2 : Reg) (s : State) : Result := s.done rd (grev (s.x rs1) (s.x rs2))

/-- grevi (R182). -/
def execGrevi (rd rs1 : Reg) (imm : BitVec 6) (s : State) : Result := s.done rd (grev (s.x rs1) imm)

/-- grevw (R183). -/
def execGrevw (rd rs1 rs2 : Reg) (s : State) : Result :=
  s.onRv64 (.grevw rd rs1 rs2) (s.doneW rd (grev (s.xw rs1) (s.x rs2)))

/-- greviw (R184). -/
def execGreviw (rd rs1 : Reg) (imm : BitVec 5) (s : State) : Result :=
  s.onRv64 (.greviw rd rs1 imm) (s.doneW rd (grev (s.xw rs1) imm))

/-- gorc (R191). -/
def execGorc (rd rs1 rs2 : Reg) (s : State) : Result := s.done rd (gorc (s.x rs1) (s.x rs2))

/-- gorci (R192). -/
def execGorci (rd rs1 : Reg) (imm : BitVec 6) (s : State) : Result := s.done rd (gorc (s.x rs1) imm)

/-- gorcw (R193). -/
def execGorcw (rd rs1 rs2 : Reg) (s : State) : Result :=
  s.onRv64 (.gorcw rd rs1 rs2) (s.doneW rd (gorc (s.xw rs1) (s.x rs2)))

/-- gorciw (R194). -/
def execGorciw (rd rs1 : Reg) (imm : BitVec 5) (s : State) : Result :=
  s.onRv64 (.gorciw rd rs1 imm) (s.doneW rd (gorc (s.xw rs1) imm))

end Sys2Proof.Machine
end

