-- ==== Sys2Proof/Machine/Shuffle.lean ====
section
/-!
DEFINITION. Generalized shuffle and crossbar permutation (43_shuffle_and_xperm.md).
-/
namespace Sys2Proof.Machine

/-! ## Operations -/

/-- The mask `ML_k` of R210 at 64 bits; at 32 bits it is the low half. -/
def shuffleMaskL : Nat → BitVec 64
  | 0 => 0x4444444444444444#64
  | 1 => 0x3030303030303030#64
  | 2 => 0x0f000f000f000f00#64
  | 3 => 0x00ff000000ff0000#64
  | _ => 0x0000ffff00000000#64

/-- The mask `MR_k` of R210 at 64 bits; at 32 bits it is the low half. -/
def shuffleMaskR : Nat → BitVec 64
  | 0 => 0x2222222222222222#64
  | 1 => 0x0c0c0c0c0c0c0c0c#64
  | 2 => 0x00f000f000f000f0#64
  | 3 => 0x0000ff000000ff00#64
  | _ => 0x00000000ffff0000#64

/-- `shuffle_stage_N` with the masks and distance of stage k (R210). -/
def shuffleStage {n : Nat} (k : Nat) (x : BitVec n) : BitVec n :=
  let l := (shuffleMaskL k).setWidth n
  let r := (shuffleMaskR k).setWidth n
  (x &&& ~~~(l ||| r)) ||| ((x <<< 2 ^ k) &&& l) ||| ((x >>> 2 ^ k) &&& r)

/-- `shfl_N(a, b)`: the stages whose bit of `b` is 1, from the widest to the narrowest (R210). -/
def shfl {n m : Nat} (a : BitVec n) (b : BitVec m) : BitVec n :=
  (List.range (logWidth n - 1)).reverse.foldl (fun x k => if b.getLsbD k then shuffleStage k x else x) a

/-- `unshfl_N(a, b)`: the same stages, narrowest first (R210). -/
def unshfl {n m : Nat} (a : BitVec n) (b : BitVec m) : BitVec n :=
  (List.range (logWidth n - 1)).foldl (fun x k => if b.getLsbD k then shuffleStage k x else x) a

/-- `xperm_N(a, b, k)`: every element of 2^k bits of `b` replaced by the element of `a` it is the index of, or by zero if
there is none (R220). -/
def xperm {n : Nat} (k : Nat) (a b : BitVec n) : BitVec n :=
  (List.range (n / 2 ^ k)).foldl
    (fun r e =>
      let idx := (b.extractLsb' (e * 2 ^ k) (2 ^ k)).toNat
      if idx < n / 2 ^ k then r ||| ((a.extractLsb' (idx * 2 ^ k) (2 ^ k)).setWidth n <<< (e * 2 ^ k)) else r)
    0#n

/-! ## Meanings -/

/-- shfl (R211). -/
def execShfl (rd rs1 rs2 : Reg) (s : State) : Result := s.done rd (shfl (s.x rs1) (s.x rs2))

/-- unshfl (R212). -/
def execUnshfl (rd rs1 rs2 : Reg) (s : State) : Result := s.done rd (unshfl (s.x rs1) (s.x rs2))

/-- shfli (R213). -/
def execShfli (rd rs1 : Reg) (imm : BitVec 5) (s : State) : Result := s.done rd (shfl (s.x rs1) imm)

/-- unshfli (R214). -/
def execUnshfli (rd rs1 : Reg) (imm : BitVec 5) (s : State) : Result := s.done rd (unshfl (s.x rs1) imm)

/-- shflw (R215). -/
def execShflw (rd rs1 rs2 : Reg) (s : State) : Result :=
  s.onRv64 (.shflw rd rs1 rs2) (s.doneW rd (shfl (s.xw rs1) (s.x rs2)))

/-- unshflw (R216). -/
def execUnshflw (rd rs1 rs2 : Reg) (s : State) : Result :=
  s.onRv64 (.unshflw rd rs1 rs2) (s.doneW rd (unshfl (s.xw rs1) (s.x rs2)))

/-- xperm.n (R221). -/
def execXpermN (rd rs1 rs2 : Reg) (s : State) : Result := s.done rd (xperm 2 (s.x rs1) (s.x rs2))

/-- xperm.b (R222). -/
def execXpermB (rd rs1 rs2 : Reg) (s : State) : Result := s.done rd (xperm 3 (s.x rs1) (s.x rs2))

/-- xperm.h (R223). -/
def execXpermH (rd rs1 rs2 : Reg) (s : State) : Result := s.done rd (xperm 4 (s.x rs1) (s.x rs2))

/-- xperm.w (R224). -/
def execXpermW (rd rs1 rs2 : Reg) (s : State) : Result :=
  s.onRv64 (.xpermW rd rs1 rs2) (s.done rd (xperm 5 (s.x rs1) (s.x rs2)))

end Sys2Proof.Machine
end

