-- ==== Sys2Proof/Machine/PseudoWord.lean ====
section
/-!
DEFINITION. The fixed words of wider instructions that have a row of their own (48_pseudo_instructions.md R340, R341).
-/
namespace Sys2Proof.Machine

/-- zext.h: `pack rd, rs, zero` on RV32, `packw rd, rs, zero` on RV64 (R341, R342). -/
def execZextH (rd rs1 : Reg) (s : State) : Result :=
  match s.xlen with
  | .rv32 => s.done rd (pack (s.x rs1) (s.x 0))
  | .rv64 => s.doneW rd (pack (s.xw rs1) (s.xw 0))

/-- rev8: grevi with immediate 24 on RV32, 56 on RV64 (R341, R346). -/
def execRev8 (rd rs1 : Reg) (s : State) : Result := s.done rd (grev (s.x rs1) (rev8Imm s.xlen))

/-- orc.b: gorci with immediate 7 (R341, R348). -/
def execOrcB (rd rs1 : Reg) (s : State) : Result := s.done rd (gorc (s.x rs1) 7#6)

/-- unzip8: unshfli with immediate 24, RV64 (R341, R352). -/
def execUnzip8 (rd rs1 : Reg) (s : State) : Result := s.onRv64 (.unzip8 rd rs1) (s.done rd (unshfl (s.x rs1) 24#5))

/-- unzip16: unshfli with immediate 16, RV64 (R341, R352). -/
def execUnzip16 (rd rs1 : Reg) (s : State) : Result := s.onRv64 (.unzip16 rd rs1) (s.done rd (unshfl (s.x rs1) 16#5))

end Sys2Proof.Machine
end

