-- ==== Sys2Proof/Machine/SingleBit.lean ====
section
/-!
DEFINITION. Single-bit instructions and shift-ones (41_single_bit_and_shift_ones.md).
-/
namespace Sys2Proof.Machine

/-! ## Operations -/

/-- `onehot_N(b)`: the word with only bit `shamt_N(b)` set (R130). -/
def oneHot (n : Nat) {m : Nat} (b : BitVec m) : BitVec n := 1#n <<< shamt n b

/-- `bset_N(a, b)` (R130). -/
def bset {n m : Nat} (a : BitVec n) (b : BitVec m) : BitVec n := a ||| oneHot n b

/-- `bclr_N(a, b)` (R130). -/
def bclr {n m : Nat} (a : BitVec n) (b : BitVec m) : BitVec n := a &&& ~~~oneHot n b

/-- `binv_N(a, b)` (R130). -/
def binv {n m : Nat} (a : BitVec n) (b : BitVec m) : BitVec n := a ^^^ oneHot n b

/-- `sbext_N(a, b)`: the single bit `a[shamt_N(b)]`, zero-extended (R130). -/
def sbext {n m : Nat} (a : BitVec n) (b : BitVec m) : BitVec n := 1#n &&& (a >>> shamt n b)

/-- `slo_N(a, b)`: shift left, ones enter at bit 0 (R130). -/
def slo {n m : Nat} (a : BitVec n) (b : BitVec m) : BitVec n := ~~~(~~~a <<< shamt n b)

/-- `sro_N(a, b)`: logical shift right, ones enter at bit N-1 (R130). -/
def sro {n m : Nat} (a : BitVec n) (b : BitVec m) : BitVec n := ~~~(~~~a >>> shamt n b)

/-! ## Meanings -/

/-- bset (R131). -/
def execBset (rd rs1 rs2 : Reg) (s : State) : Result := s.done rd (bset (s.x rs1) (s.x rs2))

/-- bclr (R132). -/
def execBclr (rd rs1 rs2 : Reg) (s : State) : Result := s.done rd (bclr (s.x rs1) (s.x rs2))

/-- binv (R133). -/
def execBinv (rd rs1 rs2 : Reg) (s : State) : Result := s.done rd (binv (s.x rs1) (s.x rs2))

/-- bext[Zbs] (R134). -/
def execBextZbs (rd rs1 rs2 : Reg) (s : State) : Result := s.done rd (sbext (s.x rs1) (s.x rs2))

/-- bseti (R135). -/
def execBseti (rd rs1 : Reg) (imm : BitVec 6) (s : State) : Result := s.done rd (bset (s.x rs1) imm)

/-- bclri (R136). -/
def execBclri (rd rs1 : Reg) (imm : BitVec 6) (s : State) : Result := s.done rd (bclr (s.x rs1) imm)

/-- binvi (R137). -/
def execBinvi (rd rs1 : Reg) (imm : BitVec 6) (s : State) : Result := s.done rd (binv (s.x rs1) imm)

/-- bexti (R138). -/
def execBexti (rd rs1 : Reg) (imm : BitVec 6) (s : State) : Result := s.done rd (sbext (s.x rs1) imm)

/-- bsetw (R139). -/
def execBsetw (rd rs1 rs2 : Reg) (s : State) : Result :=
  s.onRv64 (.bsetw rd rs1 rs2) (s.doneW rd (bset (s.xw rs1) (s.x rs2)))

/-- bclrw (R140). -/
def execBclrw (rd rs1 rs2 : Reg) (s : State) : Result :=
  s.onRv64 (.bclrw rd rs1 rs2) (s.doneW rd (bclr (s.xw rs1) (s.x rs2)))

/-- binvw (R141). -/
def execBinvw (rd rs1 rs2 : Reg) (s : State) : Result :=
  s.onRv64 (.binvw rd rs1 rs2) (s.doneW rd (binv (s.xw rs1) (s.x rs2)))

/-- bextw[Zbs] (R142). -/
def execBextwZbs (rd rs1 rs2 : Reg) (s : State) : Result :=
  s.onRv64 (.bextwZbs rd rs1 rs2) (s.doneW rd (sbext (s.xw rs1) (s.x rs2)))

/-- bsetiw (R143). -/
def execBsetiw (rd rs1 : Reg) (imm : BitVec 5) (s : State) : Result :=
  s.onRv64 (.bsetiw rd rs1 imm) (s.doneW rd (bset (s.xw rs1) imm))

/-- bclriw (R144). -/
def execBclriw (rd rs1 : Reg) (imm : BitVec 5) (s : State) : Result :=
  s.onRv64 (.bclriw rd rs1 imm) (s.doneW rd (bclr (s.xw rs1) imm))

/-- binviw (R145). -/
def execBinviw (rd rs1 : Reg) (imm : BitVec 5) (s : State) : Result :=
  s.onRv64 (.binviw rd rs1 imm) (s.doneW rd (binv (s.xw rs1) imm))

/-- slo (R150). -/
def execSlo (rd rs1 rs2 : Reg) (s : State) : Result := s.done rd (slo (s.x rs1) (s.x rs2))

/-- sro (R151). -/
def execSro (rd rs1 rs2 : Reg) (s : State) : Result := s.done rd (sro (s.x rs1) (s.x rs2))

/-- sloi (R152). -/
def execSloi (rd rs1 : Reg) (imm : BitVec 6) (s : State) : Result := s.done rd (slo (s.x rs1) imm)

/-- sroi (R153). -/
def execSroi (rd rs1 : Reg) (imm : BitVec 6) (s : State) : Result := s.done rd (sro (s.x rs1) imm)

/-- slow (R154). -/
def execSlow (rd rs1 rs2 : Reg) (s : State) : Result :=
  s.onRv64 (.slow rd rs1 rs2) (s.doneW rd (slo (s.xw rs1) (s.x rs2)))

/-- srow (R155). -/
def execSrow (rd rs1 rs2 : Reg) (s : State) : Result :=
  s.onRv64 (.srow rd rs1 rs2) (s.doneW rd (sro (s.xw rs1) (s.x rs2)))

/-- sloiw (R156). -/
def execSloiw (rd rs1 : Reg) (imm : BitVec 5) (s : State) : Result :=
  s.onRv64 (.sloiw rd rs1 imm) (s.doneW rd (slo (s.xw rs1) imm))

/-- sroiw (R157). -/
def execSroiw (rd rs1 : Reg) (imm : BitVec 5) (s : State) : Result :=
  s.onRv64 (.sroiw rd rs1 imm) (s.doneW rd (sro (s.xw rs1) imm))

end Sys2Proof.Machine
end

