-- ==== Sys2Proof/Machine/Ternary.lean ====
section
/-!
DEFINITION. Conditional mix, conditional move, funnel shifts (46_ternary.md).
-/
namespace Sys2Proof.Machine

/-! ## Operations -/

/-- `fsl_N(a, b, c)`: the upper half of `{a, c}` rotated left by the low log2(N)+1 bits of `b` (R302). -/
def fsl {n m : Nat} (a : BitVec n) (b : BitVec m) (c : BitVec n) : BitVec n :=
  let s := funnelAmount n b
  let hi := if s < n then a else c
  let lo := if s < n then c else a
  if s % n = 0 then hi else (hi <<< (s % n)) ||| (lo >>> (n - s % n))

/-- `fsr_N(a, b, c)`: the lower half of `{c, a}` rotated right by the low log2(N)+1 bits of `b` (R302). -/
def fsr {n m : Nat} (a : BitVec n) (b : BitVec m) (c : BitVec n) : BitVec n :=
  let s := funnelAmount n b
  let lo := if s < n then a else c
  let hi := if s < n then c else a
  if s % n = 0 then lo else (lo >>> (s % n)) ||| (hi <<< (n - s % n))

/-! ## Meanings -/

/-- cmix (R300). -/
def execCmix (rd rs1 rs2 rs3 : Reg) (s : State) : Result :=
  s.done rd ((s.x rs1 &&& s.x rs2) ||| (s.x rs3 &&& ~~~s.x rs2))

/-- cmov (R301). -/
def execCmov (rd rs1 rs2 rs3 : Reg) (s : State) : Result := s.done rd (if s.x rs2 ≠ 0#_ then s.x rs1 else s.x rs3)

/-- fsl (R303). -/
def execFsl (rd rs1 rs2 rs3 : Reg) (s : State) : Result := s.done rd (fsl (s.x rs1) (s.x rs2) (s.x rs3))

/-- fsr (R304). -/
def execFsr (rd rs1 rs2 rs3 : Reg) (s : State) : Result := s.done rd (fsr (s.x rs1) (s.x rs2) (s.x rs3))

/-- fsri (R305). -/
def execFsri (rd rs1 rs3 : Reg) (imm : BitVec 6) (s : State) : Result := s.done rd (fsr (s.x rs1) imm (s.x rs3))

/-- fslw (R306). -/
def execFslw (rd rs1 rs2 rs3 : Reg) (s : State) : Result :=
  s.onRv64 (.fslw rd rs1 rs2 rs3) (s.doneW rd (fsl (s.xw rs1) (s.x rs2) (s.xw rs3)))

/-- fsrw (R307). -/
def execFsrw (rd rs1 rs2 rs3 : Reg) (s : State) : Result :=
  s.onRv64 (.fsrw rd rs1 rs2 rs3) (s.doneW rd (fsr (s.xw rs1) (s.x rs2) (s.xw rs3)))

/-- fsriw (R308). -/
def execFsriw (rd rs1 rs3 : Reg) (imm : BitVec 5) (s : State) : Result :=
  s.onRv64 (.fsriw rd rs1 rs3 imm) (s.doneW rd (fsr (s.xw rs1) imm (s.xw rs3)))

end Sys2Proof.Machine
end

