-- ==== Sys2Proof/Machine/Dispatch.lean ====
section
/-!
DEFINITION. The meaning of every instruction: one arm per row of spec/opcode_table.json, one direct call each.
-/
namespace Sys2Proof.Machine

/-- Execute one instruction (10_state.md R30). -/
def exec (i : Instr) (s : State) : Host.Outcome State Fault Refusal :=
  match i with
  -- 40: Basic
  | .clz rd rs1 => Sys2Proof.Machine.execClz rd rs1 s
  | .ctz rd rs1 => Sys2Proof.Machine.execCtz rd rs1 s
  | .clzw rd rs1 => Sys2Proof.Machine.execClzw rd rs1 s
  | .ctzw rd rs1 => Sys2Proof.Machine.execCtzw rd rs1 s
  | .cpop rd rs1 => Sys2Proof.Machine.execCpop rd rs1 s
  | .cpopw rd rs1 => Sys2Proof.Machine.execCpopw rd rs1 s
  | .andn rd rs1 rs2 => Sys2Proof.Machine.execAndn rd rs1 rs2 s
  | .orn rd rs1 rs2 => Sys2Proof.Machine.execOrn rd rs1 rs2 s
  | .xnor rd rs1 rs2 => Sys2Proof.Machine.execXnor rd rs1 rs2 s
  | .pack rd rs1 rs2 => Sys2Proof.Machine.execPack rd rs1 rs2 s
  | .packu rd rs1 rs2 => Sys2Proof.Machine.execPacku rd rs1 rs2 s
  | .packh rd rs1 rs2 => Sys2Proof.Machine.execPackh rd rs1 rs2 s
  | .packw rd rs1 rs2 => Sys2Proof.Machine.execPackw rd rs1 rs2 s
  | .packuw rd rs1 rs2 => Sys2Proof.Machine.execPackuw rd rs1 rs2 s
  | .min rd rs1 rs2 => Sys2Proof.Machine.execMin rd rs1 rs2 s
  | .minu rd rs1 rs2 => Sys2Proof.Machine.execMinu rd rs1 rs2 s
  | .max rd rs1 rs2 => Sys2Proof.Machine.execMax rd rs1 rs2 s
  | .maxu rd rs1 rs2 => Sys2Proof.Machine.execMaxu rd rs1 rs2 s
  | .sextB rd rs1 => Sys2Proof.Machine.execSextB rd rs1 s
  | .sextH rd rs1 => Sys2Proof.Machine.execSextH rd rs1 s
  -- 41: SingleBit
  | .bset rd rs1 rs2 => Sys2Proof.Machine.execBset rd rs1 rs2 s
  | .bclr rd rs1 rs2 => Sys2Proof.Machine.execBclr rd rs1 rs2 s
  | .binv rd rs1 rs2 => Sys2Proof.Machine.execBinv rd rs1 rs2 s
  | .bextZbs rd rs1 rs2 => Sys2Proof.Machine.execBextZbs rd rs1 rs2 s
  | .bseti rd rs1 imm => Sys2Proof.Machine.execBseti rd rs1 imm s
  | .bclri rd rs1 imm => Sys2Proof.Machine.execBclri rd rs1 imm s
  | .binvi rd rs1 imm => Sys2Proof.Machine.execBinvi rd rs1 imm s
  | .bexti rd rs1 imm => Sys2Proof.Machine.execBexti rd rs1 imm s
  | .bsetw rd rs1 rs2 => Sys2Proof.Machine.execBsetw rd rs1 rs2 s
  | .bclrw rd rs1 rs2 => Sys2Proof.Machine.execBclrw rd rs1 rs2 s
  | .binvw rd rs1 rs2 => Sys2Proof.Machine.execBinvw rd rs1 rs2 s
  | .bextwZbs rd rs1 rs2 => Sys2Proof.Machine.execBextwZbs rd rs1 rs2 s
  | .bsetiw rd rs1 imm => Sys2Proof.Machine.execBsetiw rd rs1 imm s
  | .bclriw rd rs1 imm => Sys2Proof.Machine.execBclriw rd rs1 imm s
  | .binviw rd rs1 imm => Sys2Proof.Machine.execBinviw rd rs1 imm s
  | .slo rd rs1 rs2 => Sys2Proof.Machine.execSlo rd rs1 rs2 s
  | .sro rd rs1 rs2 => Sys2Proof.Machine.execSro rd rs1 rs2 s
  | .sloi rd rs1 imm => Sys2Proof.Machine.execSloi rd rs1 imm s
  | .sroi rd rs1 imm => Sys2Proof.Machine.execSroi rd rs1 imm s
  | .slow rd rs1 rs2 => Sys2Proof.Machine.execSlow rd rs1 rs2 s
  | .srow rd rs1 rs2 => Sys2Proof.Machine.execSrow rd rs1 rs2 s
  | .sloiw rd rs1 imm => Sys2Proof.Machine.execSloiw rd rs1 imm s
  | .sroiw rd rs1 imm => Sys2Proof.Machine.execSroiw rd rs1 imm s
  -- 42: Rotate
  | .rol rd rs1 rs2 => Sys2Proof.Machine.execRol rd rs1 rs2 s
  | .ror rd rs1 rs2 => Sys2Proof.Machine.execRor rd rs1 rs2 s
  | .rori rd rs1 imm => Sys2Proof.Machine.execRori rd rs1 imm s
  | .rolw rd rs1 rs2 => Sys2Proof.Machine.execRolw rd rs1 rs2 s
  | .rorw rd rs1 rs2 => Sys2Proof.Machine.execRorw rd rs1 rs2 s
  | .roriw rd rs1 imm => Sys2Proof.Machine.execRoriw rd rs1 imm s
  | .grev rd rs1 rs2 => Sys2Proof.Machine.execGrev rd rs1 rs2 s
  | .grevi rd rs1 imm => Sys2Proof.Machine.execGrevi rd rs1 imm s
  | .grevw rd rs1 rs2 => Sys2Proof.Machine.execGrevw rd rs1 rs2 s
  | .greviw rd rs1 imm => Sys2Proof.Machine.execGreviw rd rs1 imm s
  | .gorc rd rs1 rs2 => Sys2Proof.Machine.execGorc rd rs1 rs2 s
  | .gorci rd rs1 imm => Sys2Proof.Machine.execGorci rd rs1 imm s
  | .gorcw rd rs1 rs2 => Sys2Proof.Machine.execGorcw rd rs1 rs2 s
  | .gorciw rd rs1 imm => Sys2Proof.Machine.execGorciw rd rs1 imm s
  -- 43: Shuffle
  | .shfl rd rs1 rs2 => Sys2Proof.Machine.execShfl rd rs1 rs2 s
  | .unshfl rd rs1 rs2 => Sys2Proof.Machine.execUnshfl rd rs1 rs2 s
  | .shfli rd rs1 imm => Sys2Proof.Machine.execShfli rd rs1 imm s
  | .unshfli rd rs1 imm => Sys2Proof.Machine.execUnshfli rd rs1 imm s
  | .shflw rd rs1 rs2 => Sys2Proof.Machine.execShflw rd rs1 rs2 s
  | .unshflw rd rs1 rs2 => Sys2Proof.Machine.execUnshflw rd rs1 rs2 s
  | .xpermN rd rs1 rs2 => Sys2Proof.Machine.execXpermN rd rs1 rs2 s
  | .xpermB rd rs1 rs2 => Sys2Proof.Machine.execXpermB rd rs1 rs2 s
  | .xpermH rd rs1 rs2 => Sys2Proof.Machine.execXpermH rd rs1 rs2 s
  | .xpermW rd rs1 rs2 => Sys2Proof.Machine.execXpermW rd rs1 rs2 s
  -- 44: BitField
  | .bfp rd rs1 rs2 => Sys2Proof.Machine.execBfp rd rs1 rs2 s
  | .bfpw rd rs1 rs2 => Sys2Proof.Machine.execBfpw rd rs1 rs2 s
  | .bextZbe rd rs1 rs2 => Sys2Proof.Machine.execBextZbe rd rs1 rs2 s
  | .bdep rd rs1 rs2 => Sys2Proof.Machine.execBdep rd rs1 rs2 s
  | .bextwZbe rd rs1 rs2 => Sys2Proof.Machine.execBextwZbe rd rs1 rs2 s
  | .bdepw rd rs1 rs2 => Sys2Proof.Machine.execBdepw rd rs1 rs2 s
  -- 45: Clmul
  | .clmul rd rs1 rs2 => Sys2Proof.Machine.execClmul rd rs1 rs2 s
  | .clmulh rd rs1 rs2 => Sys2Proof.Machine.execClmulh rd rs1 rs2 s
  | .clmulr rd rs1 rs2 => Sys2Proof.Machine.execClmulr rd rs1 rs2 s
  | .crc32B rd rs1 => Sys2Proof.Machine.execCrc32B rd rs1 s
  | .crc32H rd rs1 => Sys2Proof.Machine.execCrc32H rd rs1 s
  | .crc32W rd rs1 => Sys2Proof.Machine.execCrc32W rd rs1 s
  | .crc32D rd rs1 => Sys2Proof.Machine.execCrc32D rd rs1 s
  | .crc32cB rd rs1 => Sys2Proof.Machine.execCrc32cB rd rs1 s
  | .crc32cH rd rs1 => Sys2Proof.Machine.execCrc32cH rd rs1 s
  | .crc32cW rd rs1 => Sys2Proof.Machine.execCrc32cW rd rs1 s
  | .crc32cD rd rs1 => Sys2Proof.Machine.execCrc32cD rd rs1 s
  | .bmatflip rd rs1 => Sys2Proof.Machine.execBmatflip rd rs1 s
  | .bmatxor rd rs1 rs2 => Sys2Proof.Machine.execBmatxor rd rs1 rs2 s
  | .bmator rd rs1 rs2 => Sys2Proof.Machine.execBmator rd rs1 rs2 s
  -- 46: Ternary
  | .cmix rd rs1 rs2 rs3 => Sys2Proof.Machine.execCmix rd rs1 rs2 rs3 s
  | .cmov rd rs1 rs2 rs3 => Sys2Proof.Machine.execCmov rd rs1 rs2 rs3 s
  | .fsl rd rs1 rs2 rs3 => Sys2Proof.Machine.execFsl rd rs1 rs2 rs3 s
  | .fsr rd rs1 rs2 rs3 => Sys2Proof.Machine.execFsr rd rs1 rs2 rs3 s
  | .fsri rd rs1 rs3 imm => Sys2Proof.Machine.execFsri rd rs1 rs3 imm s
  | .fslw rd rs1 rs2 rs3 => Sys2Proof.Machine.execFslw rd rs1 rs2 rs3 s
  | .fsrw rd rs1 rs2 rs3 => Sys2Proof.Machine.execFsrw rd rs1 rs2 rs3 s
  | .fsriw rd rs1 rs3 imm => Sys2Proof.Machine.execFsriw rd rs1 rs3 imm s
  -- 47: Address
  | .sh1add rd rs1 rs2 => Sys2Proof.Machine.execSh1add rd rs1 rs2 s
  | .sh2add rd rs1 rs2 => Sys2Proof.Machine.execSh2add rd rs1 rs2 s
  | .sh3add rd rs1 rs2 => Sys2Proof.Machine.execSh3add rd rs1 rs2 s
  | .sh1addUw rd rs1 rs2 => Sys2Proof.Machine.execSh1addUw rd rs1 rs2 s
  | .sh2addUw rd rs1 rs2 => Sys2Proof.Machine.execSh2addUw rd rs1 rs2 s
  | .sh3addUw rd rs1 rs2 => Sys2Proof.Machine.execSh3addUw rd rs1 rs2 s
  | .addUw rd rs1 rs2 => Sys2Proof.Machine.execAddUw rd rs1 rs2 s
  | .slliUw rd rs1 imm => Sys2Proof.Machine.execSlliUw rd rs1 imm s
  -- 49: BaseIsa
  | .and rd rs1 rs2 => Sys2Proof.Machine.execAnd rd rs1 rs2 s
  | .or rd rs1 rs2 => Sys2Proof.Machine.execOr rd rs1 rs2 s
  | .xor rd rs1 rs2 => Sys2Proof.Machine.execXor rd rs1 rs2 s
  | .sll rd rs1 rs2 => Sys2Proof.Machine.execSll rd rs1 rs2 s
  | .srl rd rs1 rs2 => Sys2Proof.Machine.execSrl rd rs1 rs2 s
  | .sra rd rs1 rs2 => Sys2Proof.Machine.execSra rd rs1 rs2 s
  | .slli rd rs1 imm => Sys2Proof.Machine.execSlli rd rs1 imm s
  | .srli rd rs1 imm => Sys2Proof.Machine.execSrli rd rs1 imm s
  | .srai rd rs1 imm => Sys2Proof.Machine.execSrai rd rs1 imm s
  -- 48: PseudoWord
  | .zextH rd rs1 => Sys2Proof.Machine.execZextH rd rs1 s
  | .rev8 rd rs1 => Sys2Proof.Machine.execRev8 rd rs1 s
  | .orcB rd rs1 => Sys2Proof.Machine.execOrcB rd rs1 s
  | .unzip8 rd rs1 => Sys2Proof.Machine.execUnzip8 rd rs1 s
  | .unzip16 rd rs1 => Sys2Proof.Machine.execUnzip16 rd rs1 s

end Sys2Proof.Machine
end

