-- ==== Sys2Proof/Machine/Step.lean ====
section
/-!
DEFINITION. One step of the hart (10_state.md R30): fetch, decode, execute, in the order of the checks of 60_exceptions.md
R428. Three outcomes: a next state, a fault, a refusal.
-/
namespace Sys2Proof.Machine

/-- Run one word: an instruction of the table if it decodes as one, else a companion instruction if it is one, else
IllegalInstruction (R30, 60 R421). -/
def runWord (s : State) (w : InstrWord) : Result :=
  match decode s.xlen s.exts w with
  | .ok i => exec i s
  | .error _ =>
    match Companion.decode s.xlen w with
    | some c => c.exec s
    | none => s.illegal w

/-- One step of the machine (R30). The word a fetch answers counts as program text from then on (20_memory.md R50). -/
def step (s : State) : Host.Outcome State Fault Refusal :=
  match s.fetch with
  | .fault f => raiseFault f
  | .refused r => .refused r
  | .word w => runWord s.noteFetch w

/-- The state with a word of `nbits` bits, every higher bit 0, placed where the next step fetches (log entry 5). -/
def State.withFetchWord (s : State) (nbits w : Nat) : State := s.placeWord (BitVec.ofNat 32 (w % 2 ^ nbits))

end Sys2Proof.Machine
end

