-- ==== Sys2Proof/Machine/Assembler.lean ====
section
/-!
DEFINITION. The assembler names that stand for other instructions (48_pseudo_instructions.md R340 to R358). The machine
never sees them (R340): an expansion is an instruction of the table or a companion instruction, and this file gives its word.
Names the spec defines no expansion for (fsli, roliw, bfext, bfextu, bfmak; 93 U9) have no constructor here.
-/
namespace Sys2Proof.Machine

/-- An assembled line: one machine instruction. -/
inductive AsmInstr where
  | table (i : Instr)
  | base (c : Companion)
  deriving DecidableEq, Repr

/-- The word of an assembled line. -/
def AsmInstr.word (x : Xlen) : AsmInstr → InstrWord
  | .table i => encode x i
  | .base c => c.encode

/-- The unit a rev, orc, zip or unzip name moves, in bits: the number after the name, 1 if there is none (R345). -/
inductive PermUnit where
  | u1
  | u2
  | u4
  | u8
  | u16
  | u32
  deriving DecidableEq, Repr

/-- The mask of the first column of Table 2.5 (R345). -/
def PermUnit.mask : PermUnit → BitVec 6
  | .u1 => 0b111111#6
  | .u2 => 0b111110#6
  | .u4 => 0b111100#6
  | .u8 => 0b111000#6
  | .u16 => 0b110000#6
  | .u32 => 0b100000#6

/-- The group a rev, orc, zip or unzip name works inside: the whole register, or the letter after the dot (R345). -/
inductive PermGroup where
  | whole
  | w
  | h
  | b
  | n
  | p
  deriving DecidableEq, Repr

/-- The mask of the second column of Table 2.5 (R345). -/
def PermGroup.mask : PermGroup → BitVec 6
  | .whole => 0b111111#6
  | .w => 0b011111#6
  | .h => 0b001111#6
  | .b => 0b000111#6
  | .n => 0b000011#6
  | .p => 0b000001#6

/-- The control word of a rev or orc name: the two masks and-ed, on RV32 the low five bits; the suffix .w and the unit 32 do
not occur on RV32, and a name whose control word is 0 does not exist (R345, R346). -/
def revControl (x : Xlen) (u : PermUnit) (g : PermGroup) : Option (BitVec 6) :=
  let c := u.mask &&& g.mask &&& (match x with | .rv32 => 31#6 | .rv64 => 63#6)
  if c = 0#6 ∨ (x = .rv32 ∧ (u = .u32 ∨ g = .w)) then none else some c

/-- The control word of a zip or unzip name: bits k ≥ log2 of the unit and k ≤ log2 of the group minus 2 (R350). -/
def zipControl (x : Xlen) (u : PermUnit) (g : PermGroup) : Option (BitVec 5) :=
  let c := u.mask.setWidth 5 &&& (g.mask >>> 1).setWidth 5 &&& (match x with | .rv32 => 15#5 | .rv64 => 31#5)
  if c = 0#5 ∨ (x = .rv32 ∧ (u = .u16 ∨ g = .w)) then none else some c

/-- A six-bit immediate field written as an integer: truncated to five bits on RV32, six on RV64 (R356). -/
def asmImm6 (x : Xlen) (imm : Int) : BitVec 6 :=
  match x with
  | .rv32 => (BitVec.ofInt 5 imm).setWidth 6
  | .rv64 => BitVec.ofInt 6 imm

/-- The immediate field of shfli and unshfli written as an integer: four bits on RV32, five on RV64 (R356). -/
def asmImm5 (x : Xlen) (imm : Int) : BitVec 5 :=
  match x with
  | .rv32 => (BitVec.ofInt 4 imm).setWidth 5
  | .rv64 => BitVec.ofInt 5 imm

/-- The instructions of the extension with one source register and an immediate. -/
inductive ImmName where
  | bseti
  | bclri
  | binvi
  | bexti
  | bsetiw
  | bclriw
  | binviw
  | sloi
  | sroi
  | sloiw
  | sroiw
  | rori
  | roriw
  | grevi
  | greviw
  | gorci
  | gorciw
  | shfli
  | unshfli
  | slliUw
  deriving DecidableEq, Repr

/-- The instruction of a mnemonic with an immediate written as an integer, truncated to the width its field has at this
XLEN (R356, 30_encoding.md R71 to R74). -/
def ImmName.instr (x : Xlen) (op : ImmName) (rd rs : Reg) (imm : Int) : Instr :=
  match op with
  | .bseti => .bseti rd rs (asmImm6 x imm)
  | .bclri => .bclri rd rs (asmImm6 x imm)
  | .binvi => .binvi rd rs (asmImm6 x imm)
  | .bexti => .bexti rd rs (asmImm6 x imm)
  | .bsetiw => .bsetiw rd rs (BitVec.ofInt 5 imm)
  | .bclriw => .bclriw rd rs (BitVec.ofInt 5 imm)
  | .binviw => .binviw rd rs (BitVec.ofInt 5 imm)
  | .sloi => .sloi rd rs (asmImm6 x imm)
  | .sroi => .sroi rd rs (asmImm6 x imm)
  | .sloiw => .sloiw rd rs (BitVec.ofInt 5 imm)
  | .sroiw => .sroiw rd rs (BitVec.ofInt 5 imm)
  | .rori => .rori rd rs (asmImm6 x imm)
  | .roriw => .roriw rd rs (BitVec.ofInt 5 imm)
  | .grevi => .grevi rd rs (asmImm6 x imm)
  | .greviw => .greviw rd rs (BitVec.ofInt 5 imm)
  | .gorci => .gorci rd rs (asmImm6 x imm)
  | .gorciw => .gorciw rd rs (BitVec.ofInt 5 imm)
  | .shfli => .shfli rd rs (asmImm5 x imm)
  | .unshfli => .unshfli rd rs (asmImm5 x imm)
  | .slliUw => .slliUw rd rs (BitVec.ofInt 6 imm)

/-- A line for an instruction of the table, on the widths that have it (R85). -/
def onWidth (x : Xlen) (i : Instr) : Option AsmInstr :=
  if x = .rv32 ∧ i.rv64Only then none else some (.table i)

/-- The assembler names of R342 to R358. -/
inductive Pseudo where
  | zextB (rd rs : Reg)
  | zextH (rd rs : Reg)
  | zextW (rd rs : Reg)
  | sextW (rd rs : Reg)
  | rev (u : PermUnit) (g : PermGroup) (rd rs : Reg)
  | orc (u : PermUnit) (g : PermGroup) (rd rs : Reg)
  | zip (u : PermUnit) (g : PermGroup) (rd rs : Reg)
  | unzip (u : PermUnit) (g : PermGroup) (rd rs : Reg)
  | immediate (op : ImmName) (rd rs : Reg) (imm : Int)
  | fsri (rd rs1 rs3 : Reg) (imm : Int)
  | fsriw (rd rs1 rs3 : Reg) (imm : Int)
  | roli (rd rs : Reg) (imm : Int)
  | not (rd rs : Reg)
  | neg (rd rs : Reg)
  | bext (rd rs1 rs2 : Reg)
  | bextw (rd rs1 rs2 : Reg)
  | beqz (rs : Reg) (offset : BitVec 12)
  | bnez (rs : Reg) (offset : BitVec 12)
  | bgt (rs rt : Reg) (offset : BitVec 12)
  deriving DecidableEq, Repr

/-- The expansion of a name at a width, with BEXT_ASM choosing what bext and bextw mean (R342 to R357, 49 R385, R389);
nothing where the name does not exist at that width. DESIGN CHOICE (log entry 19), safe: an unzip name always gives the
unshfli word, also where its immediate is its own inverse (unzip.n, unzip2.b, unzip4.h, unzip8 on RV32, unzip8.w) and the
tables print the name beside shfli; R350 leaves the word open there and says that the result does not depend on it. -/
def Pseudo.expand (x : Xlen) (asm : BextAsm) : Pseudo → Option AsmInstr
  | .zextB rd rs => some (.base (.andi rd rs 255#12))
  | .zextH rd rs => some (.table (match x with | .rv32 => .pack rd rs 0 | .rv64 => .packw rd rs 0))
  | .zextW rd rs => if x = .rv64 then some (.table (.pack rd rs 0)) else none
  | .sextW rd rs => if x = .rv64 then some (.base (.addiw rd rs 0#12)) else none
  | .rev u g rd rs => (revControl x u g).map fun c => .table (.grevi rd rs c)
  | .orc u g rd rs => (revControl x u g).map fun c => .table (.gorci rd rs c)
  | .zip u g rd rs => (zipControl x u g).map fun c => .table (.shfli rd rs c)
  | .unzip u g rd rs => (zipControl x u g).map fun c => .table (.unshfli rd rs c)
  | .immediate op rd rs imm => onWidth x (op.instr x rd rs imm)
  | .fsri rd rs1 rs3 imm => some (.table (.fsri rd rs1 rs3 (BitVec.ofInt 6 imm)))
  | .fsriw rd rs1 rs3 imm => onWidth x (.fsriw rd rs1 rs3 (BitVec.ofInt 5 imm))
  | .roli rd rs imm => some (.table (.rori rd rs (asmImm6 x (x.bits - imm))))
  | .not rd rs => some (.base (.xori rd rs (BitVec.allOnes 12)))
  | .neg rd rs => some (.base (.sub rd 0 rs))
  | .bext rd rs1 rs2 => some (.table (match asm with | .zbs => .bextZbs rd rs1 rs2 | .zbe => .bextZbe rd rs1 rs2))
  | .bextw rd rs1 rs2 =>
    if x = .rv64 then some (.table (match asm with | .zbs => .bextwZbs rd rs1 rs2 | .zbe => .bextwZbe rd rs1 rs2))
    else none
  | .beqz rs offset => some (.base (.beq rs 0 offset))
  | .bnez rs offset => some (.base (.bne rs 0 offset))
  | .bgt rs rt offset => some (.base (.blt rt rs offset))

end Sys2Proof.Machine
end

