-- ==== Sys2Proof/Safety.lean ====
section
/-!
DEFINITION. What claims are stated in: the invariant of the state, what a run that stops nowhere is, which registers an
instruction names, and counting, parity and bit-address functions that do not share text with the meanings.
-/
namespace Sys2Proof

open Sys2Proof.Machine

/-! ## The invariant and runs -/

/-- A strictly rising list of addresses. -/
abbrev Rising (l : List Nat) : Prop := l.Pairwise (· < ·)

/-- The form every state of a run keeps: memory in its canonical form with XLEN-bit addresses (20_memory.md R41), the
ledgers of written and of fetched addresses strictly rising and inside the valid set, no fetched address written (R50), the
unread register slot 0 at 0 (10_state.md R21). -/
def Machine.State.Inv (s : State) : Prop :=
  Memory.wf (2 ^ s.xlen.bits) s.mem ∧
  Rising s.written ∧
  (∀ a ∈ s.written, (s.readByte a).isSome) ∧
  Rising s.fetched ∧
  (∀ a ∈ s.fetched, (s.readByte a).isSome ∧ a ∉ s.written) ∧
  s.regs[0] = 0#_

/-- `t` is reached from `s` in `k` steps, none of which faults or is refused (60_exceptions.md R426, 70 R452). -/
def ReachesIn (k : Nat) (s t : State) : Prop := Host.Core.run core k s = .next t

/-- A run of `k` steps from `s` that meets no fault and no refusal. -/
def SafeFor (k : Nat) (s : State) : Prop := ∃ t, ReachesIn k s t

/-- A word that is no instruction of a machine with this XLEN and EXTS: neither a row of the table nor a companion
instruction (60 R421). -/
def IllegalWord (x : Xlen) (e : Exts) (w : InstrWord) : Prop :=
  (∀ i, decode x e w ≠ .ok i) ∧ Companion.decode x w = none

/-! ## The registers an instruction names (00_scope.md R13) -/

/-- The rd field of an instruction: the one register it writes. -/
def Instr.dest : Instr → Reg
  | .clz rd _ | .ctz rd _ | .clzw rd _ | .ctzw rd _ | .cpop rd _ | .cpopw rd _ | .andn rd _ _
  | .orn rd _ _ | .xnor rd _ _ | .pack rd _ _ | .packu rd _ _ | .packh rd _ _ | .packw rd _ _ | .packuw rd _ _
  | .min rd _ _ | .minu rd _ _ | .max rd _ _ | .maxu rd _ _ | .sextB rd _ | .sextH rd _ | .bset rd _ _
  | .bclr rd _ _ | .binv rd _ _ | .bextZbs rd _ _ | .bseti rd _ _ | .bclri rd _ _ | .binvi rd _ _ | .bexti rd _ _
  | .bsetw rd _ _ | .bclrw rd _ _ | .binvw rd _ _ | .bextwZbs rd _ _ | .bsetiw rd _ _ | .bclriw rd _ _ | .binviw rd _ _
  | .slo rd _ _ | .sro rd _ _ | .sloi rd _ _ | .sroi rd _ _ | .slow rd _ _ | .srow rd _ _ | .sloiw rd _ _
  | .sroiw rd _ _ | .rol rd _ _ | .ror rd _ _ | .rori rd _ _ | .rolw rd _ _ | .rorw rd _ _ | .roriw rd _ _
  | .grev rd _ _ | .grevi rd _ _ | .grevw rd _ _ | .greviw rd _ _ | .gorc rd _ _ | .gorci rd _ _ | .gorcw rd _ _
  | .gorciw rd _ _ | .shfl rd _ _ | .unshfl rd _ _ | .shfli rd _ _ | .unshfli rd _ _ | .shflw rd _ _ | .unshflw rd _ _
  | .xpermN rd _ _ | .xpermB rd _ _ | .xpermH rd _ _ | .xpermW rd _ _ | .bfp rd _ _ | .bfpw rd _ _ | .bextZbe rd _ _
  | .bdep rd _ _ | .bextwZbe rd _ _ | .bdepw rd _ _ | .clmul rd _ _ | .clmulh rd _ _ | .clmulr rd _ _ | .crc32B rd _
  | .crc32H rd _ | .crc32W rd _ | .crc32D rd _ | .crc32cB rd _ | .crc32cH rd _ | .crc32cW rd _ | .crc32cD rd _
  | .bmatflip rd _ | .bmatxor rd _ _ | .bmator rd _ _ | .cmix rd _ _ _ | .cmov rd _ _ _ | .fsl rd _ _ _ | .fsr rd _ _ _
  | .fsri rd _ _ _ | .fslw rd _ _ _ | .fsrw rd _ _ _ | .fsriw rd _ _ _ | .sh1add rd _ _ | .sh2add rd _ _ | .sh3add rd _ _
  | .sh1addUw rd _ _ | .sh2addUw rd _ _ | .sh3addUw rd _ _ | .addUw rd _ _ | .slliUw rd _ _ | .and rd _ _ | .or rd _ _
  | .xor rd _ _ | .sll rd _ _ | .srl rd _ _ | .sra rd _ _ | .slli rd _ _ | .srli rd _ _ | .srai rd _ _
  | .zextH rd _ | .rev8 rd _ | .orcB rd _ | .unzip8 rd _ | .unzip16 rd _ => rd

/-- The source registers of an instruction: its rs1, rs2 and rs3 fields. -/
def Instr.sources : Instr → List Reg
  | .clz _ rs1 | .ctz _ rs1 | .clzw _ rs1 | .ctzw _ rs1 | .cpop _ rs1 | .cpopw _ rs1
  | .sextB _ rs1 | .sextH _ rs1 | .crc32B _ rs1 | .crc32H _ rs1 | .crc32W _ rs1 | .crc32D _ rs1
  | .crc32cB _ rs1 | .crc32cH _ rs1 | .crc32cW _ rs1 | .crc32cD _ rs1 | .bmatflip _ rs1 | .zextH _ rs1
  | .rev8 _ rs1 | .orcB _ rs1 | .unzip8 _ rs1 | .unzip16 _ rs1 => [rs1]
  | .andn _ rs1 rs2 | .orn _ rs1 rs2 | .xnor _ rs1 rs2 | .pack _ rs1 rs2 | .packu _ rs1 rs2 | .packh _ rs1 rs2
  | .packw _ rs1 rs2 | .packuw _ rs1 rs2 | .min _ rs1 rs2 | .minu _ rs1 rs2 | .max _ rs1 rs2 | .maxu _ rs1 rs2
  | .bset _ rs1 rs2 | .bclr _ rs1 rs2 | .binv _ rs1 rs2 | .bextZbs _ rs1 rs2 | .bsetw _ rs1 rs2 | .bclrw _ rs1 rs2
  | .binvw _ rs1 rs2 | .bextwZbs _ rs1 rs2 | .slo _ rs1 rs2 | .sro _ rs1 rs2 | .slow _ rs1 rs2 | .srow _ rs1 rs2
  | .rol _ rs1 rs2 | .ror _ rs1 rs2 | .rolw _ rs1 rs2 | .rorw _ rs1 rs2 | .grev _ rs1 rs2 | .grevw _ rs1 rs2
  | .gorc _ rs1 rs2 | .gorcw _ rs1 rs2 | .shfl _ rs1 rs2 | .unshfl _ rs1 rs2 | .shflw _ rs1 rs2 | .unshflw _ rs1 rs2
  | .xpermN _ rs1 rs2 | .xpermB _ rs1 rs2 | .xpermH _ rs1 rs2 | .xpermW _ rs1 rs2 | .bfp _ rs1 rs2 | .bfpw _ rs1 rs2
  | .bextZbe _ rs1 rs2 | .bdep _ rs1 rs2 | .bextwZbe _ rs1 rs2 | .bdepw _ rs1 rs2 | .clmul _ rs1 rs2 | .clmulh _ rs1 rs2
  | .clmulr _ rs1 rs2 | .bmatxor _ rs1 rs2 | .bmator _ rs1 rs2 | .sh1add _ rs1 rs2 | .sh2add _ rs1 rs2 | .sh3add _ rs1 rs2
  | .sh1addUw _ rs1 rs2 | .sh2addUw _ rs1 rs2 | .sh3addUw _ rs1 rs2 | .addUw _ rs1 rs2 | .and _ rs1 rs2 | .or _ rs1 rs2
  | .xor _ rs1 rs2 | .sll _ rs1 rs2 | .srl _ rs1 rs2 | .sra _ rs1 rs2 => [rs1, rs2]
  | .bseti _ rs1 _ | .bclri _ rs1 _ | .binvi _ rs1 _ | .bexti _ rs1 _ | .bsetiw _ rs1 _ | .bclriw _ rs1 _
  | .binviw _ rs1 _ | .sloi _ rs1 _ | .sroi _ rs1 _ | .sloiw _ rs1 _ | .sroiw _ rs1 _ | .rori _ rs1 _
  | .roriw _ rs1 _ | .grevi _ rs1 _ | .greviw _ rs1 _ | .gorci _ rs1 _ | .gorciw _ rs1 _ | .shfli _ rs1 _
  | .unshfli _ rs1 _ | .slliUw _ rs1 _ | .slli _ rs1 _ | .srli _ rs1 _ | .srai _ rs1 _ => [rs1]
  | .cmix _ rs1 rs2 rs3 | .cmov _ rs1 rs2 rs3 | .fsl _ rs1 rs2 rs3 | .fsr _ rs1 rs2 rs3 | .fslw _ rs1 rs2 rs3 | .fsrw _ rs1 rs2 rs3 => [rs1, rs2, rs3]
  | .fsri _ rs1 rs3 _ | .fsriw _ rs1 rs3 _ => [rs1, rs3]

/-! ## Bits, counts and bit addresses -/

/-- Bit k of `x[r]`. -/
def Machine.State.bit (s : State) (r : Reg) (k : Nat) : Bool := (s.x r).getLsbD k

/-- How many of `f 0` .. `f (n-1)` are true. -/
def countBits : Nat → (Nat → Bool) → Nat
  | 0, _ => 0
  | n + 1, f => countBits n f + (f n).toNat

/-- The exclusive or of `f 0` .. `f (n-1)`. -/
def xorBits : Nat → (Nat → Bool) → Bool
  | 0, _ => false
  | n + 1, f => xorBits n f ^^ f n

/-- Whether one of `f 0` .. `f (n-1)` is true. -/
def orBits : Nat → (Nat → Bool) → Bool
  | 0, _ => false
  | n + 1, f => orBits n f || f n

/-- The bit-address permutation `unperm(k, i)` of 43_shuffle_and_xperm.md R217, on seven-bit addresses. -/
def unperm (k i : Nat) : Nat :=
  let k := BitVec.ofNat 7 k
  let i := BitVec.ofNat 7 i
  (((k + (i &&& k &&& ~~~(k <<< 1))) &&& ~~~k) ||| (i &&& ~~~(k ||| (k <<< 1))) ||| ((i >>> 1) &&& k)).toNat

end Sys2Proof
end

