-- ==== Sys2Proof/WellFormed.lean ====
section
/-!
DEFINITION. Which instructions a machine with a given XLEN and EXTS has (30_encoding.md R83 to R86): one named check per
reason, each of which Tests/Slice0.lean shows refusing an ill-formed term. The tables the checks read stand in Decode.lean.
-/
namespace Sys2Proof

/-- The row is listed for this XLEN (R85). -/
def Instr.widthOk (x : Xlen) (i : Instr) : Bool := x = .rv64 || !i.rv64Only

/-- The immediate has the width that this XLEN gives it (R71, R72). -/
def Instr.immOk (x : Xlen) (i : Instr) : Bool := i.immFits x

/-- The instruction is the row its word is read as: a fixed word of rule R341 stands under its own name. -/
def Instr.nameOk (x : Xlen) (i : Instr) : Bool := i.named x = i

/-- Some sub-extension that lists the row is implemented (R83, R84). -/
def Instr.extsOk (x : Xlen) (e : Exts) (i : Instr) : Bool := i.implemented x e

/-- A well-formed instruction: one that some word of a machine with this XLEN and EXTS decodes to. -/
def Instr.WellFormed (x : Xlen) (e : Exts) (i : Instr) : Prop :=
  i.widthOk x = true ∧ i.immOk x = true ∧ i.nameOk x = true ∧ i.extsOk x e = true

end Sys2Proof
end

