-- ==== Sys2Proof/Certificates/Slice0/Obligations.lean ====
section
/-!
DEFINITION. The statements for the provers. In every statement about an instruction the conclusion is that it ends normally:
`exec i s = .next (s.retire rd v)`, where `v` is given bit by bit (`bitsOf`) or as a number, and `retire` is the whole effect
(its frame is `RetireFrame` and `ExecFrame`).
-/

open Sys2Proof Sys2Proof.Machine

/-! ## The machine -/

/-- The state after reset. The spec gives x[0] = 0 only; XLEN, EXTS, the other registers, the pc and the empty memory are the
model's choices, log entries 1 to 5; the two ledgers, empty at reset, are the model's own fields, log entry 6. -/
def Obligations.ResetState : Prop :=
  State.reset.xlen = .rv64 ∧ State.reset.exts = Exts.bAll ∧ State.reset.pc.toNat = 0x1000 ∧
    (∀ r, (State.reset.x r).toNat = 0) ∧ (∀ a, State.reset.readByte a = none) ∧ State.reset.written = [] ∧
    State.reset.fetched = []

/-- The reset state meets the invariant that every step keeps. -/
def Obligations.ResetMeetsInvariant : Prop := State.reset.Inv

/-- Every step from a state that meets the invariant gives a state that meets it, with the same XLEN and EXTS (10_state.md
R20, 30_encoding.md R95). What has been fetched stays so and keeps its bytes: program text is immutable (20_memory.md R50; the
two ledgers that say so are the model's, log entry 6). -/
def Obligations.StepKeepsInvariant : Prop :=
  ∀ s t : State, s.Inv → step s = .next t →
    t.Inv ∧ t.xlen = s.xlen ∧ t.exts = s.exts ∧
    (∀ a ∈ s.fetched, a ∈ t.fetched) ∧ (∀ a ∈ t.fetched, t.readByte a = s.readByte a)

/-- What retiring an instruction changes: register rd, unless it is register 0, and the pc, by 4 modulo 2^XLEN; no other
register, no byte of memory, neither parameter, neither ledger (10_state.md R21, R26, R30). -/
def Obligations.RetireFrame : Prop :=
  ∀ (s : State) (rd : Reg) (v : s.XWord),
    (∀ r, ((s.retire rd v).x r).toNat = if r = rd ∧ rd ≠ 0 then v.toNat else (s.x r).toNat) ∧
    ((s.retire rd v).x 0).toNat = 0 ∧
    (s.retire rd v).pc.toNat = (s.pc.toNat + 4) % 2 ^ s.xlen.bits ∧
    (∀ a, (s.retire rd v).readByte a = s.readByte a) ∧
    (s.retire rd v).written = s.written ∧ (s.retire rd v).fetched = s.fetched ∧
    (s.retire rd v).xlen = s.xlen ∧ (s.retire rd v).exts = s.exts

/-- Every instruction that gives a next state ends with pc + 4, changes no register but its rd, no byte of memory and no
parameter; with rd = 0 it changes no register at all (00_scope.md R13, 10_state.md R21, R26). -/
def Obligations.ExecFrame : Prop :=
  ∀ (i : Instr) (s t : State), exec i s = .next t →
    t.pc.toNat = (s.pc.toNat + 4) % 2 ^ s.xlen.bits ∧
    (∀ r, r ≠ i.dest ∨ r = 0 → (t.x r).toNat = (s.x r).toNat) ∧
    (∀ a, t.readByte a = s.readByte a) ∧ t.written = s.written ∧ t.fetched = s.fetched ∧ t.xlen = s.xlen ∧ t.exts = s.exts

/-- Every instruction ends normally in every state, an RV64-only one when XLEN is 64: no operand value, register content or
memory content stops it (00_scope.md R13, 60_exceptions.md R424). -/
def Obligations.EveryInstructionCompletes : Prop :=
  ∀ (i : Instr) (s : State), (i.rv64Only = true → s.xlen = .rv64) →
    ∃ v : s.XWord, exec i s = .next (s.retire i.dest v)

/-- On RV32 an RV64-only instruction raises IllegalInstruction with its pc and word (30_encoding.md R85). -/
def Obligations.Rv64OnlyStopsOnRv32 : Prop :=
  ∀ (i : Instr) (s : State), i.rv64Only = true → s.xlen = .rv32 →
    exec i s = .fault (.illegalInstruction s.pc.toNat (encode .rv32 i))

/-- The result of an instruction is a function of the registers its rs1, rs2, rs3 fields name and of XLEN alone: two states
that agree on those give the same result, whatever else they hold (00_scope.md R12, R13). -/
def Obligations.ResultDependsOnSourcesOnly : Prop :=
  ∀ (i : Instr) (s s' t t' : State), s.xlen = s'.xlen →
    (∀ r ∈ i.sources, (s.x r).toNat = (s'.x r).toNat) →
    exec i s = .next t → exec i s' = .next t' → (t.x i.dest).toNat = (t'.x i.dest).toNat

/-! ## The step -/

/-- A step whose four bytes decode to a well-formed instruction of the table is that instruction, executed at the state in
which the four addresses count as fetched (10_state.md R30). That state differs from the one before in the ledger of fetched
addresses only, which is the model's own, log entry 6. -/
def Obligations.StepRunsInstruction : Prop :=
  ∀ (s : State) (b0 b1 b2 b3 : Byte) (i : Instr),
    s.pc.toNat % 4 = 0 →
    s.readByte s.pc.toNat = some b0 → s.readByte (s.pc.toNat + 1) = some b1 →
    s.readByte (s.pc.toNat + 2) = some b2 → s.readByte (s.pc.toNat + 3) = some b3 →
    (∀ k < 4, s.pc.toNat + k ∉ s.written) →
    decode s.xlen s.exts (b3 ++ b2 ++ b1 ++ b0) = .ok i →
    step s = exec i s.noteFetch ∧ s.noteFetch = { s with fetched := s.noteFetch.fetched } ∧
    (∀ a, a ∈ s.noteFetch.fetched ↔ a ∈ s.fetched ∨ ∃ k < 4, a = s.pc.toNat + k)

/-- A step whose word is no row of the table is the companion instruction the word is, if it is one, executed at the state in
which the word counts as fetched (10_state.md R30; that state: StepRunsInstruction); else it raises IllegalInstruction with the
pc and the word (60_exceptions.md R421). Which words are companion instructions rests on log entries 7 and 14. -/
def Obligations.StepOfOtherWords : Prop :=
  ∀ (s : State) (b0 b1 b2 b3 : Byte) (w : InstrWord), w = b3 ++ b2 ++ b1 ++ b0 →
    s.pc.toNat % 4 = 0 →
    s.readByte s.pc.toNat = some b0 → s.readByte (s.pc.toNat + 1) = some b1 →
    s.readByte (s.pc.toNat + 2) = some b2 → s.readByte (s.pc.toNat + 3) = some b3 →
    (∀ k < 4, s.pc.toNat + k ∉ s.written) →
    (∀ i, decode s.xlen s.exts w ≠ .ok i) →
    (∀ c, Companion.decode s.xlen w = some c → step s = c.exec s.noteFetch) ∧
    (Companion.decode s.xlen w = none → step s = .fault (.illegalInstruction s.pc.toNat w))

/-- The fetch faults, in the order of 60_exceptions.md R428: a pc that is no multiple of 4 (R422), then the lowest of the four
fetch addresses that is not valid (R423). -/
def Obligations.FetchFaults : Prop :=
  (∀ s : State, s.pc.toNat % 4 ≠ 0 → step s = .fault (.instructionAddressMisaligned s.pc.toNat)) ∧
  (∀ (s : State) (k : Nat), s.pc.toNat % 4 = 0 → k < 4 → s.readByte (s.pc.toNat + k) = none →
    (∀ j < k, (s.readByte (s.pc.toNat + j)).isSome) →
    step s = .fault (.accessFault s.pc.toNat (s.pc.toNat + k)))

/-- Program text is immutable: a fetch from valid addresses of which one has been written is refused, and so is a store to
valid addresses of which one has been fetched, each with the lowest such address (20_memory.md R50, 92_eei_decisions.md D14).
The two ledgers and the moment of the refusals are log entry 6, the stores other than sw log entry 7, addresses that wrap log
entry 9. -/
def Obligations.StoredTextIsRefused : Prop :=
  (∀ (s : State) (k : Nat), s.pc.toNat % 4 = 0 → k < 4 →
    (∀ j < 4, (s.readByte (s.pc.toNat + j)).isSome) →
    s.pc.toNat + k ∈ s.written → (∀ j < k, s.pc.toNat + j ∉ s.written) →
    step s = .refused (.storedProgramText s.pc.toNat (s.pc.toNat + k))) ∧
  (∀ (s : State) (rs1 rs2 : Reg) (imm : BitVec 12) (c : Companion) (n j : Nat) (addr : Nat → Nat),
    (c, n) ∈ [(Companion.sb rs1 rs2 imm, 1), (.sh rs1 rs2 imm, 2), (.sw rs1 rs2 imm, 4), (.sd rs1 rs2 imm, 8)] →
    (c.rv64Only = true → s.xlen = .rv64) →
    (addr = fun k => (s.x rs1 + imm.signExtend _ + BitVec.ofNat _ k).toNat) →
    (∀ k < n, (s.readByte (addr k)).isSome) →
    j < n → addr j ∈ s.fetched → (∀ k < n, addr k ∈ s.fetched → addr j ≤ addr k) →
    c.exec s = .refused (.storeIntoFetchedText s.pc.toNat (addr j)))

/-! ## Decoding and encoding -/

/-- Decoding the word of a well-formed instruction gives it back, at either XLEN and for every EXTS. -/
def Obligations.DecodeOfEncode : Prop :=
  ∀ (x : Xlen) (e : Exts) (i : Instr), i.WellFormed x e → decode x e (encode x i) = .ok i

/-- Whatever a word decodes to is well-formed and has that word: no two instructions share a word, no bit is dropped. -/
def Obligations.EncodeOfDecode : Prop :=
  ∀ (x : Xlen) (e : Exts) (w : InstrWord) (i : Instr),
    decode x e w = .ok i → i.WellFormed x e ∧ encode x i = w

/-- The same round trip for the companion instructions, on the width that has them, and no word of one is a row of the
table, whatever EXTS is. The encodings that 49_base_isa_companion.md does not print (slti, the loads other than lw, the stores,
the branches, the word forms, the fences) are the standard RISC-V ones, PRESUMED, log entry 7. -/
def Obligations.CompanionDecodeOfEncode : Prop :=
  ∀ (x : Xlen) (e : Exts) (c : Companion),
    ((c.rv64Only = true → x = .rv64) → Companion.decode x c.encode = some c) ∧ (∀ i, decode x e c.encode ≠ .ok i)

/-- Words written out from the encodings of the spec decode to the instructions they stand for. -/
def Obligations.SampleWordsDecode : Prop :=
  decode .rv32 .bAll 0x60059513#32 = .ok (.clz 10 11) ∧
  decode .rv64 .bAll 0x0ac5d533#32 = .ok (.minu 10 11 12) ∧
  decode .rv64 .bAll 0x48c5b533#32 = .ok (.bmatxor 10 11 12) ∧
  decode .rv32 .bAll 0x6ec59533#32 = .ok (.cmix 10 11 12 13) ∧
  decode .rv32 .bAll 0x6e85d513#32 = .ok (.fsri 10 11 13 40#6) ∧
  decode .rv64 .bAll 0x0a05951b#32 = .ok (.slliUw 10 11 32#6) ∧
  decode .rv32 ⟨false, true, false, false, false, false, false, false, false, false⟩ 0x6985d513#32 = .ok (.rev8 10 11)

/-- andn, orn and xnor are encoded as and, or and xor with bit 30 set (30_encoding.md R79). -/
def Obligations.NegatedLogicEncoding : Prop :=
  ∀ (x : Xlen) (rd rs1 rs2 : Reg),
    encode x (.andn rd rs1 rs2) = encode x (.and rd rs1 rs2) ||| 1#32 <<< 30 ∧
    encode x (.orn rd rs1 rs2) = encode x (.or rd rs1 rs2) ||| 1#32 <<< 30 ∧
    encode x (.xnor rd rs1 rs2) = encode x (.xor rd rs1 rs2) ||| 1#32 <<< 30 ∧
    funct7Of (encode x (.andn rd rs1 rs2)) = 0b0100000#7 ∧ funct3Of (encode x (.andn rd rs1 rs2)) = 0b111#3 ∧
    funct7Of (encode x (.orn rd rs1 rs2)) = 0b0100000#7 ∧ funct3Of (encode x (.orn rd rs1 rs2)) = 0b110#3 ∧
    funct7Of (encode x (.xnor rd rs1 rs2)) = 0b0100000#7 ∧ funct3Of (encode x (.xnor rd rs1 rs2)) = 0b100#3 ∧
    opcodeOf (encode x (.andn rd rs1 rs2)) = opOp ∧ opcodeOf (encode x (.orn rd rs1 rs2)) = opOp ∧
    opcodeOf (encode x (.xnor rd rs1 rs2)) = opOp

/-- On RV32 no word of OP-32 or OP-IMM-32 and no word of an RV64-only row is an instruction (30_encoding.md R85), nor an
OP-IMM word with funct3 001 or 101, bit 26 = 0 and bit 25 = 1 (R71), nor one with bits 31:25 = 0000100, funct3 001 or 101 and
bit 24 = 1, the place of shfli and unshfli (R72, R86). -/
def Obligations.WordsIllegalOnRv32 : Prop :=
  ∀ (e : Exts) (w : InstrWord),
    (opcodeOf w = op32 ∨ opcodeOf w = opImm32 ∨ (∃ i : Instr, i.rv64Only = true ∧ w = encode .rv64 i) ∨
      (opcodeOf w = opImm ∧ (funct3Of w = 0b001#3 ∨ funct3Of w = 0b101#3) ∧
        w.getLsbD 26 = false ∧ w.getLsbD 25 = true) ∨
      (opcodeOf w = opImm ∧ funct7Of w = 0b0000100#7 ∧ (funct3Of w = 0b001#3 ∨ funct3Of w = 0b101#3) ∧
        w.getLsbD 24 = true)) →
    IllegalWord .rv32 e w

/-- The reserved and unassigned encodings of 30_encoding.md R86 are no instructions, at either width and for every EXTS:
SH4ADD and SH4ADD.UW, FSLI in both immediate opcodes, unassigned unary codes, the rest of the ROLI space, fsriw with bit 25
set, BEXTIW, UNSHFLIW, shfli and unshfli with bit 25 set, ternary words with another funct3; and those removed in 0.93 (R89):
SUBU.W, ADDIWU, ADDWU, SUBWU, CLMULW, CLMULRW, CLMULHW. -/
def Obligations.ReservedEncodingsIllegal : Prop :=
  ∀ (x : Xlen) (e : Exts) (w : InstrWord),
    ((opcodeOf w = opOp ∨ opcodeOf w = op32) ∧ funct7Of w = 0b0010000#7 ∧ funct3Of w = 0b000#3) ∨
    ((opcodeOf w = opImm ∨ opcodeOf w = opImm32) ∧ w.getLsbD 26 = true ∧ funct3Of w = 0b001#3) ∨
    (opcodeOf w = opImm ∧ funct7Of w = 0b0110000#7 ∧ funct3Of w = 0b001#3 ∧
      imm5Of w ∉ [0#5, 1#5, 2#5, 3#5, 4#5, 5#5, 16#5, 17#5, 18#5, 19#5, 24#5, 25#5, 26#5, 27#5]) ∨
    (opcodeOf w = opImm32 ∧ funct7Of w = 0b0110000#7 ∧ funct3Of w = 0b001#3 ∧ imm5Of w ∉ [0#5, 1#5, 2#5]) ∨
    (opcodeOf w = opImm ∧ funct7Of w = 0b0110001#7 ∧ funct3Of w = 0b001#3) ∨
    (opcodeOf w = opImm32 ∧ f2Of w = 0b11#2 ∧ funct3Of w = 0b101#3) ∨
    (opcodeOf w = opImm32 ∧ funct7Of w = 0b0100100#7 ∧ funct3Of w = 0b101#3) ∨
    (opcodeOf w = opImm32 ∧ funct7Of w = 0b0000100#7 ∧ funct3Of w = 0b101#3) ∨
    (opcodeOf w = opImm ∧ funct7Of w = 0b0000101#7 ∧ (funct3Of w = 0b001#3 ∨ funct3Of w = 0b101#3)) ∨
    ((opcodeOf w = opOp ∨ opcodeOf w = op32) ∧ w.getLsbD 26 = true ∧
      funct3Of w ≠ 0b001#3 ∧ funct3Of w ≠ 0b101#3) ∨
    (opcodeOf w = op32 ∧ funct7Of w = 0b0100100#7 ∧ funct3Of w = 0b000#3) ∨
    (opcodeOf w = opImm32 ∧ funct3Of w = 0b100#3) ∨
    (opcodeOf w = op32 ∧ funct7Of w = 0b0000101#7 ∧ funct3Of w ∈ [0b000#3, 0b001#3, 0b010#3, 0b011#3]) ∨
    (opcodeOf w = op32 ∧ funct7Of w = 0b0100101#7 ∧ funct3Of w = 0b000#3) →
    IllegalWord x e w

/-- Without Zbp in EXTS, Zbb admits exactly the words rev8 of grevi and orc.b of gorci, Zbm exactly unzip8 and unzip16 of
unshfli, on RV64, and no word of shfli decodes. Without Zbe and Zbf as well, Zbb admits exactly zext.h of pack and packw, and
pack decodes in full with Zbm on RV64 (30_encoding.md R83, R84). -/
def Obligations.PseudoWordsOfNarrowMachines : Prop :=
  ∀ (x : Xlen) (e : Exts) (rd rs1 rs2 : Reg) (imm : BitVec 6) (sh : BitVec 5),
    e.zbp = false →
    ((∃ i, decode x e (encode x (.grevi rd rs1 imm)) = .ok i) ↔ e.zbb = true ∧ imm = rev8Imm x) ∧
    ((∃ i, decode x e (encode x (.gorci rd rs1 imm)) = .ok i) ↔ e.zbb = true ∧ imm = 7#6) ∧
    ((∃ i, decode x e (encode x (.unshfli rd rs1 sh)) = .ok i) ↔
      e.zbm = true ∧ x = .rv64 ∧ (sh = 24#5 ∨ sh = 16#5)) ∧
    (∀ i, decode x e (encode x (.shfli rd rs1 sh)) ≠ .ok i) ∧
    (e.zbe = false → e.zbf = false →
      ((∃ i, decode x e (encode x (.pack rd rs1 rs2)) = .ok i) ↔
        (e.zbb = true ∧ x = .rv32 ∧ rs2 = 0) ∨ (e.zbm = true ∧ x = .rv64)) ∧
      ((∃ i, decode x e (encode x (.packw rd rs1 rs2)) = .ok i) ↔ e.zbb = true ∧ x = .rv64 ∧ rs2 = 0))

/-- With EXTS empty, every word that decodes is one of the nine base-ISA rows (00_scope.md R3, 30_encoding.md R83). -/
def Obligations.EmptyExtsHasBaseRowsOnly : Prop :=
  ∀ (x : Xlen) (w : InstrWord) (i : Instr), decode x .none w = .ok i →
    (∃ rd rs1 rs2, i ∈ [.and rd rs1 rs2, .or rd rs1 rs2, .xor rd rs1 rs2, .sll rd rs1 rs2, .srl rd rs1 rs2,
      .sra rd rs1 rs2]) ∨
    (∃ rd rs1 imm, i ∈ [.slli rd rs1 imm, .srli rd rs1 imm, .srai rd rs1 imm])

/-! ## Count, logic-with-negate, pack, min/max, sign-extend (40) -/

/-- clz and ctz: the number of zeros before the first one from either end, XLEN if there is none; cpop: the number of ones
(R100 to R102, R105). clzw, ctzw and cpopw do so in the low word of rs1 (R103, R104, R106). -/
def Obligations.CountBits : Prop :=
  ∀ (s : State) (rd rs1 : Reg),
    (∃ c ≤ s.xlen.bits, exec (.clz rd rs1) s = .next (s.retire rd (BitVec.ofNat _ c)) ∧
      (∀ k < c, s.bit rs1 (s.xlen.bits - 1 - k) = false) ∧
      (c < s.xlen.bits → s.bit rs1 (s.xlen.bits - 1 - c) = true)) ∧
    (∃ c ≤ s.xlen.bits, exec (.ctz rd rs1) s = .next (s.retire rd (BitVec.ofNat _ c)) ∧
      (∀ k < c, s.bit rs1 k = false) ∧ (c < s.xlen.bits → s.bit rs1 c = true)) ∧
    exec (.cpop rd rs1) s = .next (s.retire rd (BitVec.ofNat _ (countBits s.xlen.bits (s.bit rs1)))) ∧
    (s.xlen = .rv64 →
      (∃ c ≤ 32, exec (.clzw rd rs1) s = .next (s.retire rd (BitVec.ofNat _ c)) ∧
        (∀ k < c, s.bit rs1 (31 - k) = false) ∧ (c < 32 → s.bit rs1 (31 - c) = true)) ∧
      (∃ c ≤ 32, exec (.ctzw rd rs1) s = .next (s.retire rd (BitVec.ofNat _ c)) ∧
        (∀ k < c, s.bit rs1 k = false) ∧ (c < 32 → s.bit rs1 c = true)) ∧
      exec (.cpopw rd rs1) s = .next (s.retire rd (BitVec.ofNat _ (countBits 32 (s.bit rs1)))))

/-- andn, orn, xnor, and, or, xor bit by bit (R107 to R109, 49 R371 to R373). -/
def Obligations.BitwiseLogic : Prop :=
  ∀ (s : State) (rd rs1 rs2 : Reg),
    exec (.andn rd rs1 rs2) s = .next (s.retire rd (bitsOf _ fun k => s.bit rs1 k && !s.bit rs2 k)) ∧
    exec (.orn rd rs1 rs2) s = .next (s.retire rd (bitsOf _ fun k => s.bit rs1 k || !s.bit rs2 k)) ∧
    exec (.xnor rd rs1 rs2) s = .next (s.retire rd (bitsOf _ fun k => s.bit rs1 k == s.bit rs2 k)) ∧
    exec (.and rd rs1 rs2) s = .next (s.retire rd (bitsOf _ fun k => s.bit rs1 k && s.bit rs2 k)) ∧
    exec (.or rd rs1 rs2) s = .next (s.retire rd (bitsOf _ fun k => s.bit rs1 k || s.bit rs2 k)) ∧
    exec (.xor rd rs1 rs2) s = .next (s.retire rd (bitsOf _ fun k => s.bit rs1 k != s.bit rs2 k))

/-- pack, packu, packh: which bit of which source stands where (R110 to R112); packw and packuw: half-words of the low words,
sign-extended from bit 31 (R113, R114). -/
def Obligations.PackBits : Prop :=
  ∀ (s : State) (rd rs1 rs2 : Reg),
    exec (.pack rd rs1 rs2) s = .next (s.retire rd (bitsOf _ fun k =>
      if k < s.xlen.bits / 2 then s.bit rs1 k else s.bit rs2 (k - s.xlen.bits / 2))) ∧
    exec (.packu rd rs1 rs2) s = .next (s.retire rd (bitsOf _ fun k =>
      if k < s.xlen.bits / 2 then s.bit rs1 (k + s.xlen.bits / 2) else s.bit rs2 k)) ∧
    exec (.packh rd rs1 rs2) s = .next (s.retire rd (bitsOf _ fun k =>
      if k < 8 then s.bit rs1 k else if k < 16 then s.bit rs2 (k - 8) else false)) ∧
    (s.xlen = .rv64 →
      exec (.packw rd rs1 rs2) s = .next (s.retire rd ((bitsOf 32 fun k =>
        if k < 16 then s.bit rs1 k else s.bit rs2 (k - 16)).signExtend _)) ∧
      exec (.packuw rd rs1 rs2) s = .next (s.retire rd ((bitsOf 32 fun k =>
        if k < 16 then s.bit rs1 (k + 16) else s.bit rs2 k).signExtend _)))

/-- min, max, minu, maxu give the smaller or larger operand, as signed or unsigned numbers (R115 to R118). -/
def Obligations.MinimumMaximum : Prop :=
  ∀ (s : State) (rd rs1 rs2 : Reg),
    exec (.min rd rs1 rs2) s = .next (s.retire rd (BitVec.ofInt _ (min (s.x rs1).toInt (s.x rs2).toInt))) ∧
    exec (.max rd rs1 rs2) s = .next (s.retire rd (BitVec.ofInt _ (max (s.x rs1).toInt (s.x rs2).toInt))) ∧
    exec (.minu rd rs1 rs2) s = .next (s.retire rd (BitVec.ofNat _ (min (s.x rs1).toNat (s.x rs2).toNat))) ∧
    exec (.maxu rd rs1 rs2) s = .next (s.retire rd (BitVec.ofNat _ (max (s.x rs1).toNat (s.x rs2).toNat)))

/-- sext.b and sext.h copy bit 7 and bit 15 into every higher bit (R119, R120). -/
def Obligations.SignExtend : Prop :=
  ∀ (s : State) (rd rs1 : Reg),
    exec (.sextB rd rs1) s = .next (s.retire rd (bitsOf _ fun k => s.bit rs1 (min k 7))) ∧
    exec (.sextH rd rs1) s = .next (s.retire rd (bitsOf _ fun k => s.bit rs1 (min k 15)))

/-! ## Single-bit and shift-ones (41) -/

/-- The single-bit instructions: bit number `x[rs2]` or imm modulo XLEN is set, cleared, inverted or read (R130 to R138). -/
def Obligations.SingleBit : Prop :=
  ∀ (s : State) (rd rs1 rs2 : Reg) (imm : BitVec 6) (p q : Nat),
    p = (s.x rs2).toNat % s.xlen.bits → q = imm.toNat % s.xlen.bits →
    exec (.bset rd rs1 rs2) s = .next (s.retire rd (bitsOf _ fun k => k == p || s.bit rs1 k)) ∧
    exec (.bclr rd rs1 rs2) s = .next (s.retire rd (bitsOf _ fun k => k != p && s.bit rs1 k)) ∧
    exec (.binv rd rs1 rs2) s = .next (s.retire rd (bitsOf _ fun k => (k == p) != s.bit rs1 k)) ∧
    exec (.bextZbs rd rs1 rs2) s = .next (s.retire rd (bitsOf _ fun k => k == 0 && s.bit rs1 p)) ∧
    exec (.bseti rd rs1 imm) s = .next (s.retire rd (bitsOf _ fun k => k == q || s.bit rs1 k)) ∧
    exec (.bclri rd rs1 imm) s = .next (s.retire rd (bitsOf _ fun k => k != q && s.bit rs1 k)) ∧
    exec (.binvi rd rs1 imm) s = .next (s.retire rd (bitsOf _ fun k => (k == q) != s.bit rs1 k)) ∧
    exec (.bexti rd rs1 imm) s = .next (s.retire rd (bitsOf _ fun k => k == 0 && s.bit rs1 q))

/-- The single-bit *W forms: the bit number is taken modulo 32 and the result is sign-extended (R139 to R145). -/
def Obligations.SingleBitWord : Prop :=
  ∀ (s : State) (rd rs1 rs2 : Reg) (imm : BitVec 5) (p : Nat), s.xlen = .rv64 → p = (s.x rs2).toNat % 32 →
    exec (.bsetw rd rs1 rs2) s = .next (s.retire rd ((bitsOf 32 fun k => k == p || s.bit rs1 k).signExtend _)) ∧
    exec (.bclrw rd rs1 rs2) s = .next (s.retire rd ((bitsOf 32 fun k => k != p && s.bit rs1 k).signExtend _)) ∧
    exec (.binvw rd rs1 rs2) s = .next (s.retire rd ((bitsOf 32 fun k => (k == p) != s.bit rs1 k).signExtend _)) ∧
    exec (.bextwZbs rd rs1 rs2) s = .next (s.retire rd (bitsOf _ fun k => k == 0 && s.bit rs1 p)) ∧
    exec (.bsetiw rd rs1 imm) s =
      .next (s.retire rd ((bitsOf 32 fun k => k == imm.toNat || s.bit rs1 k).signExtend _)) ∧
    exec (.bclriw rd rs1 imm) s =
      .next (s.retire rd ((bitsOf 32 fun k => k != imm.toNat && s.bit rs1 k).signExtend _)) ∧
    exec (.binviw rd rs1 imm) s =
      .next (s.retire rd ((bitsOf 32 fun k => (k == imm.toNat) != s.bit rs1 k).signExtend _))

/-- slo, sro, sloi, sroi shift in ones (R130, R150 to R153); the *W forms do so in the low word and sign-extend (R154 to
R157). -/
def Obligations.ShiftOnes : Prop :=
  ∀ (s : State) (rd rs1 rs2 : Reg) (imm : BitVec 6) (immw : BitVec 5) (p q pw qw : Nat),
    p = (s.x rs2).toNat % s.xlen.bits → q = imm.toNat % s.xlen.bits → pw = (s.x rs2).toNat % 32 → qw = immw.toNat →
    exec (.slo rd rs1 rs2) s = .next (s.retire rd (bitsOf _ fun k => k < p || s.bit rs1 (k - p))) ∧
    exec (.sro rd rs1 rs2) s = .next (s.retire rd (bitsOf _ fun k => s.xlen.bits ≤ k + p || s.bit rs1 (k + p))) ∧
    exec (.sloi rd rs1 imm) s = .next (s.retire rd (bitsOf _ fun k => k < q || s.bit rs1 (k - q))) ∧
    exec (.sroi rd rs1 imm) s = .next (s.retire rd (bitsOf _ fun k => s.xlen.bits ≤ k + q || s.bit rs1 (k + q))) ∧
    (s.xlen = .rv64 →
      exec (.slow rd rs1 rs2) s =
        .next (s.retire rd ((bitsOf 32 fun k => k < pw || s.bit rs1 (k - pw)).signExtend _)) ∧
      exec (.srow rd rs1 rs2) s =
        .next (s.retire rd ((bitsOf 32 fun k => 32 ≤ k + pw || s.bit rs1 (k + pw)).signExtend _)) ∧
      exec (.sloiw rd rs1 immw) s =
        .next (s.retire rd ((bitsOf 32 fun k => k < qw || s.bit rs1 (k - qw)).signExtend _)) ∧
      exec (.sroiw rd rs1 immw) s =
        .next (s.retire rd ((bitsOf 32 fun k => 32 ≤ k + qw || s.bit rs1 (k + qw)).signExtend _)))

/-! ## Rotate, generalized reverse, generalized OR-combine (42) -/

/-- rol, ror, rori in bit-address form: `rol(a, b)[k] = a[(k - b) mod N]`, `ror(a, b)[k] = a[(k + b) mod N]`;
the *W forms rotate the low word, N = 32, and sign-extend (R170 to R176). -/
def Obligations.Rotate : Prop :=
  ∀ (s : State) (rd rs1 rs2 : Reg) (imm : BitVec 6) (immw : BitVec 5) (n p q pw qw : Nat),
    n = s.xlen.bits → p = (s.x rs2).toNat % n → q = imm.toNat % n → pw = (s.x rs2).toNat % 32 → qw = immw.toNat →
    exec (.rol rd rs1 rs2) s = .next (s.retire rd (bitsOf _ fun k => s.bit rs1 ((k + n - p) % n))) ∧
    exec (.ror rd rs1 rs2) s = .next (s.retire rd (bitsOf _ fun k => s.bit rs1 ((k + p) % n))) ∧
    exec (.rori rd rs1 imm) s = .next (s.retire rd (bitsOf _ fun k => s.bit rs1 ((k + q) % n))) ∧
    (s.xlen = .rv64 →
      exec (.rolw rd rs1 rs2) s =
        .next (s.retire rd ((bitsOf 32 fun k => s.bit rs1 ((k + 32 - pw) % 32)).signExtend _)) ∧
      exec (.rorw rd rs1 rs2) s =
        .next (s.retire rd ((bitsOf 32 fun k => s.bit rs1 ((k + pw) % 32)).signExtend _)) ∧
      exec (.roriw rd rs1 immw) s =
        .next (s.retire rd ((bitsOf 32 fun k => s.bit rs1 ((k + qw) % 32)).signExtend _)))

/-- grev and grevi in closed form: `grev(a, b)[k] = a[k xor (b mod N)]` (R180 to R182). -/
def Obligations.GeneralizedReverse : Prop :=
  ∀ (s : State) (rd rs1 rs2 : Reg) (imm : BitVec 6),
    exec (.grev rd rs1 rs2) s =
      .next (s.retire rd (bitsOf _ fun k => s.bit rs1 (k ^^^ (s.x rs2).toNat % s.xlen.bits))) ∧
    exec (.grevi rd rs1 imm) s =
      .next (s.retire rd (bitsOf _ fun k => s.bit rs1 (k ^^^ imm.toNat % s.xlen.bits)))

/-- gorc and gorci in closed form: bit k is the or of all bits whose address differs from k only inside the control word
(R190 to R192). -/
def Obligations.GeneralizedOrCombine : Prop :=
  ∀ (s : State) (rd rs1 rs2 : Reg) (imm : BitVec 6) (n c d : Nat),
    n = s.xlen.bits → c = (s.x rs2).toNat % n → d = imm.toNat % n →
    exec (.gorc rd rs1 rs2) s =
      .next (s.retire rd (bitsOf _ fun k => orBits n fun j => (j ^^^ k) ||| c == c && s.bit rs1 j)) ∧
    exec (.gorci rd rs1 imm) s =
      .next (s.retire rd (bitsOf _ fun k => orBits n fun j => (j ^^^ k) ||| d == d && s.bit rs1 j))

/-- grevw, greviw, gorcw, gorciw: the same forms on the low word, sign-extended (R183, R184, R193, R194). -/
def Obligations.ReverseAndCombineWord : Prop :=
  ∀ (s : State) (rd rs1 rs2 : Reg) (imm : BitVec 5) (c d : Nat), s.xlen = .rv64 →
    c = (s.x rs2).toNat % 32 → d = imm.toNat →
    exec (.grevw rd rs1 rs2) s = .next (s.retire rd ((bitsOf 32 fun k => s.bit rs1 (k ^^^ c)).signExtend _)) ∧
    exec (.greviw rd rs1 imm) s = .next (s.retire rd ((bitsOf 32 fun k => s.bit rs1 (k ^^^ d)).signExtend _)) ∧
    exec (.gorcw rd rs1 rs2) s = .next (s.retire rd
      ((bitsOf 32 fun k => orBits 32 fun j => (j ^^^ k) ||| c == c && s.bit rs1 j).signExtend _)) ∧
    exec (.gorciw rd rs1 imm) s = .next (s.retire rd
      ((bitsOf 32 fun k => orBits 32 fun j => (j ^^^ k) ||| d == d && s.bit rs1 j).signExtend _))

/-! ## Shuffle and crossbar (43) -/

/-- shfl and shfli in bit-index form: `shfl(a, b)[k] = a[unperm(b mod N/2, k)]` (R217, R211, R213). -/
def Obligations.ShuffleBits : Prop :=
  ∀ (s : State) (rd rs1 rs2 : Reg) (imm : BitVec 5),
    exec (.shfl rd rs1 rs2) s =
      .next (s.retire rd (bitsOf _ fun k => s.bit rs1 (unperm ((s.x rs2).toNat % (s.xlen.bits / 2)) k))) ∧
    exec (.shfli rd rs1 imm) s =
      .next (s.retire rd (bitsOf _ fun k => s.bit rs1 (unperm (imm.toNat % (s.xlen.bits / 2)) k)))

/-- unshfl and unshfli in bit-index form: `unshfl(a, b)[unperm(b mod N/2, k)] = a[k]` (R217, R212, R214). -/
def Obligations.UnshuffleBits : Prop :=
  ∀ (s : State) (rd rs1 rs2 : Reg) (imm : BitVec 5),
    (∃ v : s.XWord, exec (.unshfl rd rs1 rs2) s = .next (s.retire rd v) ∧
      ∀ k < s.xlen.bits, v.getLsbD (unperm ((s.x rs2).toNat % (s.xlen.bits / 2)) k) = s.bit rs1 k) ∧
    (∃ v : s.XWord, exec (.unshfli rd rs1 imm) s = .next (s.retire rd v) ∧
      ∀ k < s.xlen.bits, v.getLsbD (unperm (imm.toNat % (s.xlen.bits / 2)) k) = s.bit rs1 k)

/-- shflw and unshflw: the same forms at 32 bits with four control bits, sign-extended (R215, R216). -/
def Obligations.ShuffleWordBits : Prop :=
  ∀ (s : State) (rd rs1 rs2 : Reg), s.xlen = .rv64 →
    exec (.shflw rd rs1 rs2) s =
      .next (s.retire rd ((bitsOf 32 fun k => s.bit rs1 (unperm ((s.x rs2).toNat % 16) k)).signExtend _)) ∧
    (∃ v : BitVec 32, exec (.unshflw rd rs1 rs2) s = .next (s.retire rd (v.signExtend _)) ∧
      ∀ k < 32, v.getLsbD (unperm ((s.x rs2).toNat % 16) k) = s.bit rs1 k)

/-- The four crossbar instructions: element e of the result is the element of rs1 whose number is element e of rs2, zero if
there is none (R220 to R224); xperm.w on RV64. -/
def Obligations.Crossbar : Prop :=
  ∀ (s : State) (rd rs1 rs2 : Reg) (i : Instr) (z : Nat),
    (i, z) ∈ [(Instr.xpermN rd rs1 rs2, 4), (.xpermB rd rs1 rs2, 8), (.xpermH rd rs1 rs2, 16)] ∨
      (i = .xpermW rd rs1 rs2 ∧ z = 32 ∧ s.xlen = .rv64) →
    exec i s = .next (s.retire rd (bitsOf _ fun k =>
      let idx := (s.x rs2).toNat / 2 ^ (z * (k / z)) % 2 ^ z
      decide (idx < s.xlen.bits / z) && s.bit rs1 (z * idx + k % z)))

/-! ## Bit-field place, bit extract, bit deposit (44) -/

/-- bfp on RV32, by the layout of rule R240: DATA 15:0, OFF 20:16, LEN 27:24, 0 encoding 16 (R241). -/
def Obligations.BitFieldPlaceRv32 : Prop :=
  ∀ (s : State) (rd rs1 rs2 : Reg) (off len : Nat), s.xlen = .rv32 →
    off = (s.x rs2).toNat / 2 ^ 16 % 32 →
    len = (if (s.x rs2).toNat / 2 ^ 24 % 16 = 0 then 16 else (s.x rs2).toNat / 2 ^ 24 % 16) →
    exec (.bfp rd rs1 rs2) s = .next (s.retire rd (bitsOf _ fun k =>
      if off ≤ k ∧ k < off + len then s.bit rs2 (k - off) else s.bit rs1 k))

/-- bfp and bfpw on RV64. bfp takes OFF 53:48 and LEN 60:56 if SEL 63:62 is 10, else OFF' 37:32 and LEN' 44:40, 0 encoding 32;
bfpw works on the low words with the RV32 layout (R240 to R242). -/
def Obligations.BitFieldPlaceRv64 : Prop :=
  ∀ (s : State) (rd rs1 rs2 : Reg) (c off len offw lenw : Nat), s.xlen = .rv64 →
    c = (if (s.x rs2).toNat / 2 ^ 62 = 2 then (s.x rs2).toNat / 2 ^ 48 else (s.x rs2).toNat / 2 ^ 32) →
    off = c % 64 → len = (if c / 2 ^ 8 % 32 = 0 then 32 else c / 2 ^ 8 % 32) →
    offw = (s.x rs2).toNat / 2 ^ 16 % 32 →
    lenw = (if (s.x rs2).toNat / 2 ^ 24 % 16 = 0 then 16 else (s.x rs2).toNat / 2 ^ 24 % 16) →
    exec (.bfp rd rs1 rs2) s = .next (s.retire rd (bitsOf _ fun k =>
      if off ≤ k ∧ k < off + len then s.bit rs2 (k - off) else s.bit rs1 k)) ∧
    exec (.bfpw rd rs1 rs2) s = .next (s.retire rd ((bitsOf 32 fun k =>
      if offw ≤ k ∧ k < offw + lenw then s.bit rs2 (k - offw) else s.bit rs1 k).signExtend _))

/-- bext[Zbe] gathers: the bit of rs1 at mask position k goes to the position that counts the mask bits below k, and the bits
from the number of mask bits up are zero (R245, R246); bextw[Zbe] does so with the low words (R248). -/
def Obligations.BitExtract : Prop :=
  ∀ (s : State) (rd rs1 rs2 : Reg),
    (∃ v : s.XWord, exec (.bextZbe rd rs1 rs2) s = .next (s.retire rd v) ∧
      (∀ k < s.xlen.bits, s.bit rs2 k = true → v.getLsbD (countBits k (s.bit rs2)) = s.bit rs1 k) ∧
      (∀ j, countBits s.xlen.bits (s.bit rs2) ≤ j → v.getLsbD j = false)) ∧
    (s.xlen = .rv64 → ∃ v : BitVec 32, exec (.bextwZbe rd rs1 rs2) s = .next (s.retire rd (v.signExtend _)) ∧
      (∀ k < 32, s.bit rs2 k = true → v.getLsbD (countBits k (s.bit rs2)) = s.bit rs1 k) ∧
      (∀ j, countBits 32 (s.bit rs2) ≤ j → v.getLsbD j = false))

/-- bdep scatters: at mask position k stands the bit of rs1 whose number counts the mask bits below k, elsewhere zero (R245,
R247); bdepw does so with the low words (R249). -/
def Obligations.BitDeposit : Prop :=
  ∀ (s : State) (rd rs1 rs2 : Reg),
    exec (.bdep rd rs1 rs2) s =
      .next (s.retire rd (bitsOf _ fun k => s.bit rs2 k && s.bit rs1 (countBits k (s.bit rs2)))) ∧
    (s.xlen = .rv64 → exec (.bdepw rd rs1 rs2) s = .next (s.retire rd
      ((bitsOf 32 fun k => s.bit rs2 k && s.bit rs1 (countBits k (s.bit rs2))).signExtend _)))

/-! ## Carry-less multiply, CRC, bit matrix (45) -/

/-- clmul, clmulh, clmulr are bits N-1:0, 2N-1:N and 2N-2:N-1 of the carry-less product, whose bit k is the exclusive or of
`a[k-j] & b[j]` (R260 to R263). -/
def Obligations.CarrylessMultiply : Prop :=
  ∀ (s : State) (rd rs1 rs2 : Reg) (n : Nat) (p : Nat → Bool), n = s.xlen.bits →
    (p = fun k => xorBits n fun j => decide (j ≤ k) && s.bit rs2 j && s.bit rs1 (k - j)) →
    exec (.clmul rd rs1 rs2) s = .next (s.retire rd (bitsOf _ p)) ∧
    exec (.clmulh rd rs1 rs2) s = .next (s.retire rd (bitsOf _ fun k => p (n + k))) ∧
    exec (.clmulr rd rs1 rs2) s = .next (s.retire rd (bitsOf _ fun k => p (n - 1 + k)))

/-- Every CRC instruction iterates one round of its polynomial 8, 16, 32 or, on RV64, 64 times over the whole register (R270 to
R278). -/
def Obligations.CrcRounds : Prop :=
  ∀ (s : State) (rd rs1 : Reg) (round roundC : s.XWord → s.XWord),
    (round = fun x => if x.getLsbD 0 then (x >>> 1) ^^^ BitVec.ofNat _ 0xEDB88320 else x >>> 1) →
    (roundC = fun x => if x.getLsbD 0 then (x >>> 1) ^^^ BitVec.ofNat _ 0x82F63B78 else x >>> 1) →
    exec (.crc32B rd rs1) s = .next (s.retire rd (Nat.repeat round 8 (s.x rs1))) ∧
    exec (.crc32H rd rs1) s = .next (s.retire rd (Nat.repeat round 16 (s.x rs1))) ∧
    exec (.crc32W rd rs1) s = .next (s.retire rd (Nat.repeat round 32 (s.x rs1))) ∧
    exec (.crc32cB rd rs1) s = .next (s.retire rd (Nat.repeat roundC 8 (s.x rs1))) ∧
    exec (.crc32cH rd rs1) s = .next (s.retire rd (Nat.repeat roundC 16 (s.x rs1))) ∧
    exec (.crc32cW rd rs1) s = .next (s.retire rd (Nat.repeat roundC 32 (s.x rs1))) ∧
    (s.xlen = .rv64 →
      exec (.crc32D rd rs1) s = .next (s.retire rd (Nat.repeat round 64 (s.x rs1))) ∧
      exec (.crc32cD rd rs1) s = .next (s.retire rd (Nat.repeat roundC 64 (s.x rs1))))

/-- The Barrett replacement of crc32.w on RV32: clmul by 0xF7011641, then clmulr by 0xEDB88320, gives what crc32.w gives, for
every value of the register (R279). -/
def Obligations.CrcByBarrettReduction : Prop :=
  ∀ (s t u w : State) (r q0 q1 : Reg), s.xlen = .rv32 → q1 ≠ r →
    (s.x q0).toNat = 0xF7011641 → (s.x q1).toNat = 0xEDB88320 →
    exec (.clmul r r q0) s = .next t → exec (.clmulr r r q1) t = .next u → exec (.crc32W r r) s = .next w →
    (u.x r).toNat = (w.x r).toNat

/-- bmatflip, bmatxor, bmator element by element: bit 8r + c is row r, column c of the 8 by 8 matrix (R285 to R288). -/
def Obligations.BitMatrix : Prop :=
  ∀ (s : State) (rd rs1 rs2 : Reg), s.xlen = .rv64 →
    exec (.bmatflip rd rs1) s = .next (s.retire rd (bitsOf _ fun k => s.bit rs1 (8 * (k % 8) + k / 8))) ∧
    exec (.bmatxor rd rs1 rs2) s = .next (s.retire rd (bitsOf _ fun k =>
      xorBits 8 fun j => s.bit rs1 (8 * (k / 8) + j) && s.bit rs2 (8 * j + k % 8))) ∧
    exec (.bmator rd rs1 rs2) s = .next (s.retire rd (bitsOf _ fun k =>
      orBits 8 fun j => s.bit rs1 (8 * (k / 8) + j) && s.bit rs2 (8 * j + k % 8)))

/-! ## Ternary (46) -/

/-- cmix selects bit by bit, cmov as a whole on all XLEN bits of rs2 (R300, R301). -/
def Obligations.ConditionalMixAndMove : Prop :=
  ∀ (s : State) (rd rs1 rs2 rs3 : Reg),
    exec (.cmix rd rs1 rs2 rs3) s =
      .next (s.retire rd (bitsOf _ fun k => if s.bit rs2 k then s.bit rs1 k else s.bit rs3 k)) ∧
    exec (.cmov rd rs1 rs2 rs3) s =
      .next (s.retire rd (if (s.x rs2).toNat = 0 then s.x rs3 else s.x rs1))

/-- fsl is the upper half of `{rs1, rs3}` rotated left, fsr and fsri the lower half of `{rs3, rs1}` rotated right, by the amount
modulo 2N (R302 to R305). -/
def Obligations.FunnelShift : Prop :=
  ∀ (s : State) (rd rs1 rs2 rs3 : Reg) (imm : BitVec 6) (n p : Nat) (hiLo loHi : Nat → Bool),
    n = s.xlen.bits → p = (s.x rs2).toNat % (2 * n) →
    (hiLo = fun j => if j < n then s.bit rs3 j else s.bit rs1 (j - n)) →
    (loHi = fun j => if j < n then s.bit rs1 j else s.bit rs3 (j - n)) →
    exec (.fsl rd rs1 rs2 rs3) s = .next (s.retire rd (bitsOf _ fun k => hiLo ((k + n + 2 * n - p) % (2 * n)))) ∧
    exec (.fsr rd rs1 rs2 rs3) s = .next (s.retire rd (bitsOf _ fun k => loHi ((k + p) % (2 * n)))) ∧
    exec (.fsri rd rs1 rs3 imm) s = .next (s.retire rd (bitsOf _ fun k => loHi ((k + imm.toNat) % (2 * n))))

/-- fslw, fsrw, fsriw: the funnel shifts of the low words, amount modulo 64, sign-extended (R306 to R308). -/
def Obligations.FunnelShiftWord : Prop :=
  ∀ (s : State) (rd rs1 rs2 rs3 : Reg) (imm : BitVec 5) (p : Nat) (hiLo loHi : Nat → Bool), s.xlen = .rv64 →
    p = (s.x rs2).toNat % 64 →
    (hiLo = fun j => if j < 32 then s.bit rs3 j else s.bit rs1 (j - 32)) →
    (loHi = fun j => if j < 32 then s.bit rs1 j else s.bit rs3 (j - 32)) →
    exec (.fslw rd rs1 rs2 rs3) s =
      .next (s.retire rd ((bitsOf 32 fun k => hiLo ((k + 32 + 64 - p) % 64)).signExtend _)) ∧
    exec (.fsrw rd rs1 rs2 rs3) s = .next (s.retire rd ((bitsOf 32 fun k => loHi ((k + p) % 64)).signExtend _)) ∧
    exec (.fsriw rd rs1 rs3 imm) s =
      .next (s.retire rd ((bitsOf 32 fun k => loHi ((k + imm.toNat) % 64)).signExtend _))

/-! ## Address calculation and zero-extended words (47) -/

/-- sh1add, sh2add, sh3add and, on RV64, their .uw forms, add.uw and slli.uw, as sums modulo 2^XLEN (R320 to R327). -/
def Obligations.ShiftAndAdd : Prop :=
  ∀ (s : State) (rd rs1 rs2 : Reg) (imm : BitVec 6) (a b u : Nat),
    a = (s.x rs1).toNat → b = (s.x rs2).toNat → u = a % 2 ^ 32 →
    exec (.sh1add rd rs1 rs2) s = .next (s.retire rd (BitVec.ofNat _ (2 * a + b))) ∧
    exec (.sh2add rd rs1 rs2) s = .next (s.retire rd (BitVec.ofNat _ (4 * a + b))) ∧
    exec (.sh3add rd rs1 rs2) s = .next (s.retire rd (BitVec.ofNat _ (8 * a + b))) ∧
    (s.xlen = .rv64 →
      exec (.sh1addUw rd rs1 rs2) s = .next (s.retire rd (BitVec.ofNat _ (2 * u + b))) ∧
      exec (.sh2addUw rd rs1 rs2) s = .next (s.retire rd (BitVec.ofNat _ (4 * u + b))) ∧
      exec (.sh3addUw rd rs1 rs2) s = .next (s.retire rd (BitVec.ofNat _ (8 * u + b))) ∧
      exec (.addUw rd rs1 rs2) s = .next (s.retire rd (BitVec.ofNat _ (u + b))) ∧
      exec (.slliUw rd rs1 imm) s = .next (s.retire rd (BitVec.ofNat _ (u * 2 ^ imm.toNat))))

/-! ## The base-ISA shifts (49) and the pseudo-words (48) -/

/-- sll, srl, sra, slli, srli, srai bit by bit, amount modulo XLEN (49 R374 to R379). For an immediate of 32 or more on
RV32, which no word holds, that is the model's choice, log entry 12. -/
def Obligations.BaseShifts : Prop :=
  ∀ (s : State) (rd rs1 rs2 : Reg) (imm : BitVec 6) (n p q : Nat),
    n = s.xlen.bits → p = (s.x rs2).toNat % n → q = imm.toNat % n →
    exec (.sll rd rs1 rs2) s = .next (s.retire rd (bitsOf _ fun k => decide (p ≤ k) && s.bit rs1 (k - p))) ∧
    exec (.srl rd rs1 rs2) s = .next (s.retire rd (bitsOf _ fun k => s.bit rs1 (k + p))) ∧
    exec (.sra rd rs1 rs2) s = .next (s.retire rd (bitsOf _ fun k => s.bit rs1 (min (k + p) (n - 1)))) ∧
    exec (.slli rd rs1 imm) s = .next (s.retire rd (bitsOf _ fun k => decide (q ≤ k) && s.bit rs1 (k - q))) ∧
    exec (.srli rd rs1 imm) s = .next (s.retire rd (bitsOf _ fun k => s.bit rs1 (k + q))) ∧
    exec (.srai rd rs1 imm) s = .next (s.retire rd (bitsOf _ fun k => s.bit rs1 (min (k + q) (n - 1))))

/-- What the pseudo-words compute: zext.h keeps bits 15:0, rev8 reverses the bytes, orc.b spreads the or of each byte, unzip8
and unzip16 on RV64 gather the even and the odd units (48 R341, R342, R346, R348, R352). -/
def Obligations.PseudoWordResults : Prop :=
  ∀ (s : State) (rd rs1 : Reg) (n : Nat), n = s.xlen.bits →
    exec (.zextH rd rs1) s = .next (s.retire rd (bitsOf _ fun k => decide (k < 16) && s.bit rs1 k)) ∧
    exec (.rev8 rd rs1) s = .next (s.retire rd (bitsOf _ fun k => s.bit rs1 (8 * (n / 8 - 1 - k / 8) + k % 8))) ∧
    exec (.orcB rd rs1) s = .next (s.retire rd (bitsOf _ fun k => orBits 8 fun j => s.bit rs1 (8 * (k / 8) + j))) ∧
    (s.xlen = .rv64 →
      exec (.unzip8 rd rs1) s = .next (s.retire rd (bitsOf _ fun k =>
        s.bit rs1 (16 * (k % 32 / 8) + 8 * (k / 32) + k % 8))) ∧
      exec (.unzip16 rd rs1) s = .next (s.retire rd (bitsOf _ fun k =>
        s.bit rs1 (32 * (k % 32 / 16) + 16 * (k / 32) + k % 16))))

/-! ## The companion instructions (49 section 3) -/

/-- A store whose addresses are valid and not fetched as text writes exactly its 1, 2, 4 or 8 bytes, little-endian, moves the
pc by 4, puts its addresses into the ledger of written addresses, and changes nothing else (20 R42, R43, R45, 49 R388). That the
addresses wrap modulo 2^XLEN is log entry 9, the ledgers are log entry 6, and sb, sh, sd are log entry 7. -/
def Obligations.CompanionStores : Prop :=
  ∀ (s : State) (rs1 rs2 : Reg) (imm : BitVec 12) (c : Companion) (n : Nat) (addr : Nat → Nat),
    (c, n) ∈ [(Companion.sb rs1 rs2 imm, 1), (.sh rs1 rs2 imm, 2), (.sw rs1 rs2 imm, 4), (.sd rs1 rs2 imm, 8)] →
    (c.rv64Only = true → s.xlen = .rv64) →
    (addr = fun k => (s.x rs1 + imm.signExtend _ + BitVec.ofNat _ k).toNat) →
    (∀ k < n, (s.readByte (addr k)).isSome ∧ addr k ∉ s.fetched) →
    ∃ t, c.exec s = .next t ∧
      (∀ k < n, t.readByte (addr k) = some (BitVec.ofNat 8 ((s.x rs2).toNat / 256 ^ k))) ∧
      (∀ a, (∀ k < n, a ≠ addr k) → t.readByte a = s.readByte a) ∧
      (∀ a, a ∈ t.written ↔ a ∈ s.written ∨ ∃ k < n, a = addr k) ∧ t.fetched = s.fetched ∧
      (∀ r, (t.x r).toNat = (s.x r).toNat) ∧ t.pc.toNat = (s.pc.toNat + 4) % 2 ^ s.xlen.bits ∧
      t.xlen = s.xlen ∧ t.exts = s.exts

/-- A load whose addresses are valid puts the little-endian value of its bytes into rd, sign-extended (lb, lh, lw) or
zero-extended (lbu, lhu, and on RV64 lwu); ld loads eight bytes on RV64 (20 R42, R43, R45, 49 R388). That the addresses wrap
modulo 2^XLEN is log entry 9; the loads other than lw are log entry 7, lwu on RV64 only PRESUMED there. -/
def Obligations.CompanionLoads : Prop :=
  ∀ (s : State) (rd rs1 : Reg) (imm : BitVec 12) (addr : Nat → Nat) (b : Nat → Byte) (n : Nat),
    (addr = fun k => (s.x rs1 + imm.signExtend _ + BitVec.ofNat _ k).toNat) →
    (∀ k < n, s.readByte (addr k) = some (b k)) →
    (n = 1 → (Companion.lb rd rs1 imm).exec s = .next (s.retire rd ((b 0).signExtend _)) ∧
      (Companion.lbu rd rs1 imm).exec s = .next (s.retire rd ((b 0).setWidth _))) ∧
    (n = 2 → (Companion.lh rd rs1 imm).exec s = .next (s.retire rd ((b 1 ++ b 0).signExtend _)) ∧
      (Companion.lhu rd rs1 imm).exec s = .next (s.retire rd ((b 1 ++ b 0).setWidth _))) ∧
    (n = 4 → (Companion.lw rd rs1 imm).exec s = .next (s.retire rd ((b 3 ++ b 2 ++ b 1 ++ b 0).signExtend _)) ∧
      (s.xlen = .rv64 →
        (Companion.lwu rd rs1 imm).exec s = .next (s.retire rd ((b 3 ++ b 2 ++ b 1 ++ b 0).setWidth _)))) ∧
    (n = 8 → s.xlen = .rv64 → (Companion.ld rd rs1 imm).exec s =
      .next (s.retire rd ((b 7 ++ b 6 ++ b 5 ++ b 4 ++ b 3 ++ b 2 ++ b 1 ++ b 0).setWidth _)))

/-- A load or store that touches an invalid address raises AccessFault with the lowest such address of the access (60 R423).
Which addresses those are at the top of the address space is log entry 9; the forms other than lw and sw are log entry 7. -/
def Obligations.CompanionAccessFaults : Prop :=
  ∀ (s : State) (rd rs1 rs2 : Reg) (imm : BitVec 12) (c : Companion) (n j : Nat) (addr : Nat → Nat),
    (c, n) ∈ [(Companion.lb rd rs1 imm, 1), (.lbu rd rs1 imm, 1), (.lh rd rs1 imm, 2), (.lhu rd rs1 imm, 2),
      (.lw rd rs1 imm, 4), (.lwu rd rs1 imm, 4), (.ld rd rs1 imm, 8), (.sb rs1 rs2 imm, 1), (.sh rs1 rs2 imm, 2),
      (.sw rs1 rs2 imm, 4), (.sd rs1 rs2 imm, 8)] →
    (c.rv64Only = true → s.xlen = .rv64) →
    (addr = fun k => (s.x rs1 + imm.signExtend _ + BitVec.ofNat _ k).toNat) →
    j < n → s.readByte (addr j) = none → (∀ k < n, s.readByte (addr k) = none → addr j ≤ addr k) →
    c.exec s = .fault (.accessFault s.pc.toNat (addr j))

/-- ret has the word 0x00008067 and puts x[1] with bit 0 cleared into the pc, changing nothing else (49 R390). -/
def Obligations.CompanionReturn : Prop :=
  ∀ (s : State) (e : Exts),
    (∀ i, decode s.xlen e 0x00008067#32 ≠ .ok i) ∧ Companion.decode s.xlen 0x00008067#32 = some .ret ∧
    Companion.ret.exec s = .next { s with pc := bitsOf _ fun k => k != 0 && s.bit 1 k }

/-- The conditional branches change the pc and nothing else: to pc + offset if the condition holds, else to pc + 4 (49
R389). beq is DEDUCED from beqz, log entry 7, and a target past the end of the address space wraps, log entry 9. fence and
fence.i advance the pc by 4 and change nothing else (20_memory.md R48). -/
def Obligations.CompanionBranches : Prop :=
  ∀ (s : State) (rs1 rs2 : Reg) (offset : BitVec 12) (c : Companion) (cond : Bool),
    ((Companion.fence rs1 rs2 offset).exec s = .next { s with pc := s.pc + 4#_ } ∧
      (Companion.fenceI rs1 rs2 offset).exec s = .next { s with pc := s.pc + 4#_ }) ∧
    ((c, cond) ∈ [(Companion.beq rs1 rs2 offset, decide ((s.x rs1).toNat = (s.x rs2).toNat)),
      (.bne rs1 rs2 offset, decide ((s.x rs1).toNat ≠ (s.x rs2).toNat)),
      (.blt rs1 rs2 offset, decide ((s.x rs1).toInt < (s.x rs2).toInt)),
      (.bge rs1 rs2 offset, decide ((s.x rs1).toInt ≥ (s.x rs2).toInt)),
      (.bltu rs1 rs2 offset, decide ((s.x rs1).toNat < (s.x rs2).toNat))] →
    c.exec s = .next { s with pc := s.pc + (if cond then BitVec.ofInt _ (2 * offset.toInt) else 4#_) })

/-- The companion arithmetic at full width, as numbers modulo 2^XLEN (49 R380, R381, R385 to R387, R391). -/
def Obligations.CompanionArithmetic : Prop :=
  ∀ (s : State) (rd rs1 rs2 : Reg) (imm : BitVec 12),
    (Companion.add rd rs1 rs2).exec s = .next (s.retire rd (BitVec.ofNat _ ((s.x rs1).toNat + (s.x rs2).toNat))) ∧
    (Companion.sub rd rs1 rs2).exec s = .next (s.retire rd (BitVec.ofInt _ ((s.x rs1).toInt - (s.x rs2).toInt))) ∧
    (Companion.slt rd rs1 rs2).exec s =
      .next (s.retire rd (BitVec.ofNat _ (if (s.x rs1).toInt < (s.x rs2).toInt then 1 else 0))) ∧
    (Companion.sltu rd rs1 rs2).exec s =
      .next (s.retire rd (BitVec.ofNat _ (if (s.x rs1).toNat < (s.x rs2).toNat then 1 else 0))) ∧
    (Companion.slti rd rs1 imm).exec s =
      .next (s.retire rd (BitVec.ofNat _ (if (s.x rs1).toInt < imm.toInt then 1 else 0))) ∧
    (Companion.sltiu rd rs1 imm).exec s = .next (s.retire rd (BitVec.ofNat _
      (if (s.x rs1).toNat < (BitVec.ofInt s.xlen.bits imm.toInt).toNat then 1 else 0))) ∧
    (Companion.addi rd rs1 imm).exec s = .next (s.retire rd (BitVec.ofInt _ ((s.x rs1).toInt + imm.toInt))) ∧
    (Companion.andi rd rs1 imm).exec s =
      .next (s.retire rd (bitsOf _ fun k => s.bit rs1 k && imm.getLsbD (min k 11))) ∧
    (Companion.ori rd rs1 imm).exec s =
      .next (s.retire rd (bitsOf _ fun k => s.bit rs1 k || imm.getLsbD (min k 11))) ∧
    (Companion.xori rd rs1 imm).exec s =
      .next (s.retire rd (bitsOf _ fun k => s.bit rs1 k != imm.getLsbD (min k 11))) ∧
    (Companion.mul rd rs1 rs2).exec s = .next (s.retire rd (BitVec.ofNat _ ((s.x rs1).toNat * (s.x rs2).toNat))) ∧
    (∃ v : s.XWord, (Companion.mulh rd rs1 rs2).exec s = .next (s.retire rd v) ∧
      v.toInt = (s.x rs1).toInt * (s.x rs2).toInt / 2 ^ s.xlen.bits)

/-- lui, and on RV64 the companion *W forms: the 32-bit operation on the low words, sign-extended (49 R380 to R382, R385,
R393). -/
def Obligations.CompanionWordForms : Prop :=
  ∀ (s : State) (rd rs1 rs2 : Reg) (imm : BitVec 12) (sh : BitVec 5) (imm20 : BitVec 20) (p : Nat),
    p = (s.x rs2).toNat % 32 →
    (Companion.lui rd imm20).exec s = .next (s.retire rd ((BitVec.ofNat 32 (imm20.toNat * 4096)).signExtend _)) ∧
    (s.xlen = .rv64 →
      (Companion.addw rd rs1 rs2).exec s =
        .next (s.retire rd ((BitVec.ofNat 32 ((s.x rs1).toNat + (s.x rs2).toNat)).signExtend _)) ∧
      (Companion.subw rd rs1 rs2).exec s =
        .next (s.retire rd ((BitVec.ofInt 32 ((s.x rs1).toNat - (s.x rs2).toNat)).signExtend _)) ∧
      (Companion.addiw rd rs1 imm).exec s =
        .next (s.retire rd ((BitVec.ofInt 32 ((s.x rs1).toNat + imm.toInt)).signExtend _)) ∧
      (Companion.sllw rd rs1 rs2).exec s =
        .next (s.retire rd ((bitsOf 32 fun k => decide (p ≤ k) && s.bit rs1 (k - p)).signExtend _)) ∧
      (Companion.srlw rd rs1 rs2).exec s =
        .next (s.retire rd ((bitsOf 32 fun k => decide (k + p < 32) && s.bit rs1 (k + p)).signExtend _)) ∧
      (Companion.sraw rd rs1 rs2).exec s =
        .next (s.retire rd ((bitsOf 32 fun k => s.bit rs1 (min (k + p) 31)).signExtend _)) ∧
      (Companion.slliw rd rs1 sh).exec s =
        .next (s.retire rd ((bitsOf 32 fun k => decide (sh.toNat ≤ k) && s.bit rs1 (k - sh.toNat)).signExtend _)) ∧
      (Companion.srliw rd rs1 sh).exec s = .next (s.retire rd
        ((bitsOf 32 fun k => decide (k + sh.toNat < 32) && s.bit rs1 (k + sh.toNat)).signExtend _)) ∧
      (Companion.sraiw rd rs1 sh).exec s =
        .next (s.retire rd ((bitsOf 32 fun k => s.bit rs1 (min (k + sh.toNat) 31)).signExtend _)))

/-! ## The assembler names (48) -/

/-- The control words of the rev and orc names are those of Table 2.4, of the zip and unzip names those of Tables 2.7 and 2.8,
and the names expand to grevi, gorci, shfli and unshfli with them (48 R345, R346, R348, R350, R351). That an unzip name whose
immediate is its own inverse gives the unshfli word is the model's choice, log entry 19. Every immediate of the extension,
written as an integer, is truncated to the width of its field: it counts modulo XLEN in the shift-type forms, modulo XLEN / 2
in shfli and unshfli, modulo 32 in the *W forms, modulo 64 in slli.uw and fsri; the *W forms and slli.uw have a line on RV64
only (48 R356, 30 R71 to R74). -/
def Obligations.AssemblerControlWords : Prop :=
  [PermUnit.u1, .u2, .u4, .u8, .u16, .u32].map (fun u =>
    [PermGroup.whole, .w, .h, .b, .n, .p].map fun g => (revControl .rv64 u g).map BitVec.toNat) =
    [[some 63, some 31, some 15, some 7, some 3, some 1], [some 62, some 30, some 14, some 6, some 2, none],
     [some 60, some 28, some 12, some 4, none, none], [some 56, some 24, some 8, none, none, none],
     [some 48, some 16, none, none, none, none], [some 32, none, none, none, none, none]] ∧
  [PermUnit.u1, .u2, .u4, .u8, .u16, .u32].map (fun u =>
    [PermGroup.whole, .w, .h, .b, .n, .p].map fun g => (revControl .rv32 u g).map BitVec.toNat) =
    [[some 31, none, some 15, some 7, some 3, some 1], [some 30, none, some 14, some 6, some 2, none],
     [some 28, none, some 12, some 4, none, none], [some 24, none, some 8, none, none, none],
     [some 16, none, none, none, none, none], [none, none, none, none, none, none]] ∧
  [PermUnit.u1, .u2, .u4, .u8, .u16].map (fun u =>
    [PermGroup.whole, .w, .h, .b, .n].map fun g => (zipControl .rv64 u g).map BitVec.toNat) =
    [[some 31, some 15, some 7, some 3, some 1], [some 30, some 14, some 6, some 2, none],
     [some 28, some 12, some 4, none, none], [some 24, some 8, none, none, none], [some 16, none, none, none, none]] ∧
  [PermUnit.u1, .u2, .u4, .u8, .u16].map (fun u =>
    [PermGroup.whole, .w, .h, .b, .n].map fun g => (zipControl .rv32 u g).map BitVec.toNat) =
    [[some 15, none, some 7, some 3, some 1], [some 14, none, some 6, some 2, none],
     [some 12, none, some 4, none, none], [some 8, none, none, none, none], [none, none, none, none, none]] ∧
  asmImm6 .rv32 (-8) = 24#6 ∧ asmImm6 .rv64 (-8) = 56#6 ∧ asmImm6 .rv32 (-1) = 31#6 ∧ asmImm6 .rv64 (-1) = 63#6 ∧
  asmImm5 .rv32 (-1) = 15#5 ∧ asmImm5 .rv64 (-1) = 31#5 ∧
  (∀ (x : Xlen) (asm : BextAsm) (u : PermUnit) (g : PermGroup) (rd rs : Reg),
    (Pseudo.rev u g rd rs).expand x asm = (revControl x u g).map (fun c => .table (.grevi rd rs c)) ∧
    (Pseudo.orc u g rd rs).expand x asm = (revControl x u g).map (fun c => .table (.gorci rd rs c)) ∧
    (Pseudo.zip u g rd rs).expand x asm = (zipControl x u g).map (fun c => .table (.shfli rd rs c)) ∧
    (Pseudo.unzip u g rd rs).expand x asm = (zipControl x u g).map (fun c => .table (.unshfli rd rs c))) ∧
  (∀ (x : Xlen) (asm : BextAsm) (rd rs rs3 : Reg) (imm : Int) (n q h w f : Nat),
    n = x.bits → q = (imm % (n : Int)).toNat → h = (imm % ((n / 2 : Nat) : Int)).toNat →
    w = (imm % 32).toNat → f = (imm % 64).toNat →
    (∀ p ∈ [(ImmName.bseti, Instr.bseti rd rs (BitVec.ofNat 6 q)), (.bclri, .bclri rd rs (BitVec.ofNat 6 q)),
        (.binvi, .binvi rd rs (BitVec.ofNat 6 q)), (.bexti, .bexti rd rs (BitVec.ofNat 6 q)),
        (.sloi, .sloi rd rs (BitVec.ofNat 6 q)), (.sroi, .sroi rd rs (BitVec.ofNat 6 q)),
        (.rori, .rori rd rs (BitVec.ofNat 6 q)), (.grevi, .grevi rd rs (BitVec.ofNat 6 q)),
        (.gorci, .gorci rd rs (BitVec.ofNat 6 q)), (.shfli, .shfli rd rs (BitVec.ofNat 5 h)),
        (.unshfli, .unshfli rd rs (BitVec.ofNat 5 h))],
      (Pseudo.immediate p.1 rd rs imm).expand x asm = some (.table p.2)) ∧
    (∀ p ∈ [(ImmName.bsetiw, Instr.bsetiw rd rs (BitVec.ofNat 5 w)), (.bclriw, .bclriw rd rs (BitVec.ofNat 5 w)),
        (.binviw, .binviw rd rs (BitVec.ofNat 5 w)), (.sloiw, .sloiw rd rs (BitVec.ofNat 5 w)),
        (.sroiw, .sroiw rd rs (BitVec.ofNat 5 w)), (.roriw, .roriw rd rs (BitVec.ofNat 5 w)),
        (.greviw, .greviw rd rs (BitVec.ofNat 5 w)), (.gorciw, .gorciw rd rs (BitVec.ofNat 5 w)),
        (.slliUw, .slliUw rd rs (BitVec.ofNat 6 f))],
      (Pseudo.immediate p.1 rd rs imm).expand x asm = if x = .rv64 then some (.table p.2) else none) ∧
    (Pseudo.fsri rd rs rs3 imm).expand x asm = some (.table (.fsri rd rs rs3 (BitVec.ofNat 6 f))) ∧
    (Pseudo.fsriw rd rs rs3 imm).expand x asm =
      (if x = .rv64 then some (.table (.fsriw rd rs rs3 (BitVec.ofNat 5 w))) else none))

/-- roli rotates left by its immediate, below XLEN, at either width (48 R353). -/
def Obligations.AssemblerRotateLeft : Prop :=
  ∀ (s : State) (asm : BextAsm) (rd rs : Reg) (imm : Nat), imm < s.xlen.bits →
    ∃ i, (Pseudo.roli rd rs imm).expand s.xlen asm = some (.table i) ∧ i.immFits s.xlen = true ∧
      exec i s = .next (s.retire rd (bitsOf _ fun k => s.bit rs ((k + s.xlen.bits - imm) % s.xlen.bits)))
end

