-- ==== Sys2Proof/Laws/State.lean ====
section
/-!
SUPPORT. What every named update of the state does to every field, and what reading a register answers after it.
-/
namespace Sys2Proof.Machine

/-! ## retire -/

@[simp] theorem State.retire_xlen (s : State) (rd : Reg) (v : s.XWord) : (s.retire rd v).xlen = s.xlen := rfl
@[simp] theorem State.retire_XWord (s : State) (rd : Reg) (v : s.XWord) :
    (s.retire rd v).XWord = s.XWord := rfl
@[simp] theorem State.retire_exts (s : State) (rd : Reg) (v : s.XWord) : (s.retire rd v).exts = s.exts := rfl
@[simp] theorem State.retire_pc (s : State) (rd : Reg) (v : s.XWord) : (s.retire rd v).pc = s.pc + 4#_ := rfl
@[simp] theorem State.retire_mem (s : State) (rd : Reg) (v : s.XWord) : (s.retire rd v).mem = s.mem := rfl
@[simp] theorem State.retire_written (s : State) (rd : Reg) (v : s.XWord) : (s.retire rd v).written = s.written := rfl
@[simp] theorem State.retire_fetched (s : State) (rd : Reg) (v : s.XWord) : (s.retire rd v).fetched = s.fetched := rfl
@[simp] theorem State.retire_regs (s : State) (rd : Reg) (v : s.XWord) :
    (s.retire rd v).regs = if rd = 0 then s.regs else s.regs.set rd v := rfl
@[simp] theorem State.retire_readByte (s : State) (rd : Reg) (v : s.XWord) (a : Nat) :
    (s.retire rd v).readByte a = s.readByte a := rfl

/-! ## jump -/

@[simp] theorem State.jump_xlen (s : State) (p : s.XWord) : (s.jump p).xlen = s.xlen := rfl
@[simp] theorem State.jump_XWord (s : State) (p : s.XWord) :
    (s.jump p).XWord = s.XWord := rfl
@[simp] theorem State.jump_exts (s : State) (p : s.XWord) : (s.jump p).exts = s.exts := rfl
@[simp] theorem State.jump_regs (s : State) (p : s.XWord) : (s.jump p).regs = s.regs := rfl
@[simp] theorem State.jump_pc (s : State) (p : s.XWord) : (s.jump p).pc = p := rfl
@[simp] theorem State.jump_mem (s : State) (p : s.XWord) : (s.jump p).mem = s.mem := rfl
@[simp] theorem State.jump_written (s : State) (p : s.XWord) : (s.jump p).written = s.written := rfl
@[simp] theorem State.jump_fetched (s : State) (p : s.XWord) : (s.jump p).fetched = s.fetched := rfl
@[simp] theorem State.jump_readByte (s : State) (p : s.XWord) (a : Nat) : (s.jump p).readByte a = s.readByte a := rfl
@[simp] theorem State.jump_x (s : State) (p : s.XWord) (r : Reg) : (s.jump p).x r = s.x r := rfl

/-! ## storeBytes -/

@[simp] theorem State.storeBytes_xlen (s : State) (l : List Nat) (bs : List Byte) :
    (s.storeBytes l bs).xlen = s.xlen := rfl
@[simp] theorem State.storeBytes_XWord (s : State) (l : List Nat) (bs : List Byte) :
    (s.storeBytes l bs).XWord = s.XWord := rfl
@[simp] theorem State.storeBytes_exts (s : State) (l : List Nat) (bs : List Byte) :
    (s.storeBytes l bs).exts = s.exts := rfl
@[simp] theorem State.storeBytes_regs (s : State) (l : List Nat) (bs : List Byte) :
    (s.storeBytes l bs).regs = s.regs := rfl
@[simp] theorem State.storeBytes_pc (s : State) (l : List Nat) (bs : List Byte) :
    (s.storeBytes l bs).pc = s.pc := rfl
@[simp] theorem State.storeBytes_mem (s : State) (l : List Nat) (bs : List Byte) :
    (s.storeBytes l bs).mem = Memory.writeAll s.mem l bs := rfl
@[simp] theorem State.storeBytes_written (s : State) (l : List Nat) (bs : List Byte) :
    (s.storeBytes l bs).written = l.foldl insertAddr s.written := rfl
@[simp] theorem State.storeBytes_fetched (s : State) (l : List Nat) (bs : List Byte) :
    (s.storeBytes l bs).fetched = s.fetched := rfl
@[simp] theorem State.storeBytes_x (s : State) (l : List Nat) (bs : List Byte) (r : Reg) :
    (s.storeBytes l bs).x r = s.x r := rfl

/-! ## placeWord -/

@[simp] theorem State.placeWord_xlen (s : State) (w : InstrWord) : (s.placeWord w).xlen = s.xlen := rfl
@[simp] theorem State.placeWord_XWord (s : State) (w : InstrWord) :
    (s.placeWord w).XWord = s.XWord := rfl
@[simp] theorem State.placeWord_exts (s : State) (w : InstrWord) : (s.placeWord w).exts = s.exts := rfl
@[simp] theorem State.placeWord_regs (s : State) (w : InstrWord) : (s.placeWord w).regs = s.regs := rfl
@[simp] theorem State.placeWord_pc (s : State) (w : InstrWord) : (s.placeWord w).pc = s.pc := rfl
@[simp] theorem State.placeWord_mem (s : State) (w : InstrWord) :
    (s.placeWord w).mem = Memory.writeAll s.mem (s.span s.pc 4) (wordBytes w) := rfl
@[simp] theorem State.placeWord_written (s : State) (w : InstrWord) :
    (s.placeWord w).written = s.written.filter fun a => !(s.span s.pc 4).contains a := rfl
@[simp] theorem State.placeWord_fetched (s : State) (w : InstrWord) : (s.placeWord w).fetched = s.fetched := rfl
@[simp] theorem State.placeWord_x (s : State) (w : InstrWord) (r : Reg) : (s.placeWord w).x r = s.x r := rfl

/-! ## noteFetch -/

@[simp] theorem State.noteFetch_xlen (s : State) : s.noteFetch.xlen = s.xlen := rfl
@[simp] theorem State.noteFetch_XWord (s : State) : s.noteFetch.XWord = s.XWord := rfl
@[simp] theorem State.noteFetch_exts (s : State) : s.noteFetch.exts = s.exts := rfl
@[simp] theorem State.noteFetch_regs (s : State) : s.noteFetch.regs = s.regs := rfl
@[simp] theorem State.noteFetch_pc (s : State) : s.noteFetch.pc = s.pc := rfl
@[simp] theorem State.noteFetch_mem (s : State) : s.noteFetch.mem = s.mem := rfl
@[simp] theorem State.noteFetch_written (s : State) : s.noteFetch.written = s.written := rfl
@[simp] theorem State.noteFetch_fetched (s : State) :
    s.noteFetch.fetched = (s.span s.pc 4).foldl insertAddr s.fetched := rfl
@[simp] theorem State.noteFetch_readByte (s : State) (a : Nat) : s.noteFetch.readByte a = s.readByte a := rfl
@[simp] theorem State.noteFetch_x (s : State) (r : Reg) : s.noteFetch.x r = s.x r := rfl

/-! ## launch -/

@[simp] theorem State.launch_xlen (x : Xlen) (e : Exts) (m : Memory) (p : BitVec x.bits)
    (r : Vector (BitVec x.bits) 32) : (State.launch x e m p r).xlen = x := rfl
@[simp] theorem State.launch_exts (x : Xlen) (e : Exts) (m : Memory) (p : BitVec x.bits)
    (r : Vector (BitVec x.bits) 32) : (State.launch x e m p r).exts = e := rfl
@[simp] theorem State.launch_regs (x : Xlen) (e : Exts) (m : Memory) (p : BitVec x.bits)
    (r : Vector (BitVec x.bits) 32) : (State.launch x e m p r).regs = r := rfl
@[simp] theorem State.launch_pc (x : Xlen) (e : Exts) (m : Memory) (p : BitVec x.bits)
    (r : Vector (BitVec x.bits) 32) : (State.launch x e m p r).pc = p := rfl
@[simp] theorem State.launch_mem (x : Xlen) (e : Exts) (m : Memory) (p : BitVec x.bits)
    (r : Vector (BitVec x.bits) 32) : (State.launch x e m p r).mem = m := rfl
@[simp] theorem State.launch_written (x : Xlen) (e : Exts) (m : Memory) (p : BitVec x.bits)
    (r : Vector (BitVec x.bits) 32) : (State.launch x e m p r).written = [] := rfl
@[simp] theorem State.launch_fetched (x : Xlen) (e : Exts) (m : Memory) (p : BitVec x.bits)
    (r : Vector (BitVec x.bits) 32) : (State.launch x e m p r).fetched = [] := rfl

/-! ## Registers after a write (10_state.md R21) -/

/-- What every register reads as after an instruction has retired. -/
theorem State.retire_x (s : State) (rd : Reg) (v : s.XWord) (r : Reg) :
    (s.retire rd v).x r = if r = rd ∧ rd ≠ 0 then v else s.x r := by
  by_cases h0 : r = 0
  · subst h0
    by_cases hd : rd = 0
    · simp [State.x, hd]
    · simp [State.x, Ne.symm hd]
  · by_cases hd : rd = 0
    · subst hd
      simp only [State.x, State.retire_regs, if_true, h0, ne_eq, not_true, and_false, if_false]
      rfl
    · by_cases hr : r = rd
      · subst hr
        simp only [State.x, State.retire_regs, h0, ne_eq, not_false_eq_true, and_self, if_true, if_false]
        exact Vector.getElem_set_self _
      · have hv : rd.val ≠ r.val := fun h => hr (Fin.ext h.symm)
        simp only [State.x, State.retire_regs, h0, hd, hr, false_and, if_false]
        exact Vector.getElem_set_ne _ _ hv

/-- The destination reads as the result, unless it is register 0. -/
theorem State.retire_x_self (s : State) (rd : Reg) (v : s.XWord) (h : rd ≠ 0) :
    (s.retire rd v).x rd = v :=
  (State.retire_x s rd v rd).trans (if_pos ⟨rfl, h⟩)

/-- Every other register reads as before. -/
theorem State.retire_x_other (s : State) (rd : Reg) (v : s.XWord) (r : Reg) (h : r ≠ rd) :
    (s.retire rd v).x r = s.x r :=
  (State.retire_x s rd v r).trans (if_neg fun hr => h hr.1)

/-- Register 0 reads as 0 in every state. -/
@[simp] theorem State.x_zero (s : State) : s.x 0 = 0#_ := rfl

/-- The unread slot of register 0 keeps its value. -/
theorem State.retire_slot0 (s : State) (rd : Reg) (v : s.XWord) :
    (s.retire rd v).regs[0] = s.regs[0] := by
  by_cases hd : rd = 0
  · simp [hd]
  · have hv : rd.val ≠ 0 := fun h => hd (Fin.ext h)
    simp only [State.retire_regs, hd, if_false]
    exact Vector.getElem_set_ne _ _ hv

/-! ## The endings of a meaning -/

/-- An instruction that ends normally answers exactly its retired state. -/
theorem State.done_eq_next {s t : State} {rd : Reg} {v : s.XWord} : s.done rd v = .next t ↔ t = s.retire rd v := by
  constructor
  · intro h; cases h; rfl
  · rintro rfl; rfl

/-- A *W instruction that ends normally answers exactly the state retired with the sign-extended result. -/
theorem State.doneW_eq_next {s t : State} {rd : Reg} {v : BitVec 32} :
    s.doneW rd v = .next t ↔ t = s.retire rd (v.signExtend _) := State.done_eq_next

/-- On RV64 the guard of an RV64-only row lets its effect through. -/
theorem State.onRv64_rv64 {s : State} (h : s.xlen = .rv64) (i : Instr) (e : Result) : s.onRv64 i e = e := by
  simp [State.onRv64, h]

/-- On RV32 the guard of an RV64-only row raises IllegalInstruction with its word. -/
theorem State.onRv64_rv32 {s : State} (h : s.xlen = .rv32) (i : Instr) (e : Result) :
    s.onRv64 i e = .fault (.illegalInstruction s.pc.toNat (encode .rv32 i)) := by
  simp [State.onRv64, h, State.illegal, raiseFault]

/-- A next state behind the guard comes from the effect, on RV64. -/
theorem State.onRv64_eq_next {s t : State} {i : Instr} {e : Result} (h : s.onRv64 i e = .next t) :
    s.xlen = .rv64 ∧ e = .next t := by
  cases hx : s.xlen with
  | rv32 => rw [State.onRv64_rv32 hx] at h; cases h
  | rv64 => rw [State.onRv64_rv64 hx] at h; exact ⟨rfl, h⟩

end Sys2Proof.Machine
end

