-- ==== Sys2Proof/Laws/Memory.lean ====
section
/-!
SUPPORT. The laws of the memory operations: what a read answers after a write, and that every operation keeps the canonical
form of the memory and of the two ledgers.
-/
namespace Sys2Proof.Machine

/-! ## Reading after writing -/

/-- A byte that was written reads as written. -/
@[simp] theorem Memory.read_write_same (m : Memory) (a : Nat) (b : Byte) :
    Memory.read (Memory.write m a b) a = some b := by
  induction m with
  | nil => simp [Memory.write, Memory.read]
  | cons p m ih =>
    obtain ⟨k, v⟩ := p
    simp only [Memory.write]
    split
    · simp [Memory.read]
    · split
      · simp [Memory.read]
      · rename_i h1 h2
        simp [Memory.read, Ne.symm h2, ih]

/-- Every other byte reads as before a write. -/
theorem Memory.read_write_other (m : Memory) {a c : Nat} (b : Byte) (h : c ≠ a) :
    Memory.read (Memory.write m a b) c = Memory.read m c := by
  induction m with
  | nil => simp [Memory.write, Memory.read, Ne.symm h]
  | cons p m ih =>
    obtain ⟨k, v⟩ := p
    simp only [Memory.write]
    split
    · simp [Memory.read, Ne.symm h]
    · split
      · rename_i h1 h2
        subst h2
        simp [Memory.read, Ne.symm h]
      · simp only [Memory.read, ih]

/-- What a write makes every byte read as. -/
theorem Memory.read_write (m : Memory) (a c : Nat) (b : Byte) :
    Memory.read (Memory.write m a b) c = if c = a then some b else Memory.read m c := by
  split
  · rename_i h; subst h; simp
  · rename_i h; exact Memory.read_write_other m b h

/-- A byte outside the addresses written reads as before. -/
theorem Memory.read_writeAll_other (m : Memory) (l : List Nat) (bs : List Byte) {c : Nat} (h : c ∉ l) :
    Memory.read (Memory.writeAll m l bs) c = Memory.read m c := by
  induction l generalizing m bs with
  | nil => simp [Memory.writeAll]
  | cons a l ih =>
    cases bs with
    | nil => simp [Memory.writeAll]
    | cons b bs =>
      simp only [List.mem_cons, not_or] at h
      have := ih (Memory.write m a b) bs h.2
      simp only [Memory.writeAll, List.zip_cons_cons, List.foldl_cons] at this ⊢
      rw [this, Memory.read_write_other m b h.1]

/-- A byte that is present stays present when others are written. -/
theorem Memory.isSome_read_writeAll (m : Memory) (l : List Nat) (bs : List Byte) {c : Nat}
    (h : (Memory.read m c).isSome) : (Memory.read (Memory.writeAll m l bs) c).isSome := by
  induction l generalizing m bs with
  | nil => simpa [Memory.writeAll] using h
  | cons a l ih =>
    cases bs with
    | nil => simpa [Memory.writeAll] using h
    | cons b bs =>
      refine ih (Memory.write m a b) bs ?_
      rw [Memory.read_write]; split <;> simp [h]

/-! ## The canonical form -/

/-- The addresses of a memory after a write. -/
theorem Memory.mem_write {m : Memory} {a : Nat} {b : Byte} {p : Host.Cell} (h : p ∈ Memory.write m a b) :
    p = (a, b) ∨ p ∈ m := by
  induction m with
  | nil => simpa [Memory.write] using h
  | cons q m ih =>
    obtain ⟨k, v⟩ := q
    simp only [Memory.write] at h
    split at h
    · simpa using h
    · split at h
      · simp only [List.mem_cons] at h ⊢; tauto
      · simp only [List.mem_cons] at h ⊢
        rcases h with h | h
        · exact .inr (.inl h)
        · rcases ih h with h | h
          · exact .inl h
          · exact .inr (.inr h)

/-- A write to an address below the bound keeps the canonical form. -/
theorem Memory.wf_write {bound : Nat} {m : Memory} (h : Memory.wf bound m) {a : Nat} (ha : a < bound) (b : Byte) :
    Memory.wf bound (Memory.write m a b) := by
  obtain ⟨hp, hb⟩ := h
  refine ⟨?_, ?_⟩
  · clear hb ha
    induction m with
    | nil => simp [Memory.write]
    | cons q m ih =>
      obtain ⟨k, v⟩ := q
      rw [List.pairwise_cons] at hp
      simp only [Memory.write]
      split
      · rename_i hlt
        refine List.pairwise_cons.2 ⟨?_, List.pairwise_cons.2 hp⟩
        intro p hpm
        rcases List.mem_cons.1 hpm with rfl | hpm
        · exact hlt
        · exact Nat.lt_trans hlt (hp.1 p hpm)
      · split
        · rename_i h1 h2
          subst h2
          exact List.pairwise_cons.2 ⟨hp.1, hp.2⟩
        · rename_i h1 h2
          refine List.pairwise_cons.2 ⟨?_, ih hp.2⟩
          intro p hpm
          rcases Memory.mem_write hpm with rfl | hpm
          · show k < a; omega
          · exact hp.1 p hpm
  · intro p hpm
    rcases Memory.mem_write hpm with rfl | hpm
    · exact ha
    · exact hb p hpm

/-- Writing several bytes at addresses below the bound keeps the canonical form. -/
theorem Memory.wf_writeAll {bound : Nat} {m : Memory} (h : Memory.wf bound m) (l : List Nat) (bs : List Byte)
    (hl : ∀ a ∈ l, a < bound) : Memory.wf bound (Memory.writeAll m l bs) := by
  induction l generalizing m bs with
  | nil => simpa [Memory.writeAll] using h
  | cons a l ih =>
    cases bs with
    | nil => simpa [Memory.writeAll] using h
    | cons b bs =>
      exact ih (Memory.wf_write h (hl a (by simp)) b) bs fun c hc => hl c (by simp [hc])

/-- An address is valid exactly if the memory lists it. -/
theorem Memory.isSome_read {m : Memory} {a : Nat} : (Memory.read m a).isSome ↔ ∃ b, (a, b) ∈ m := by
  induction m with
  | nil => simp [Memory.read]
  | cons q m ih =>
    obtain ⟨k, v⟩ := q
    simp only [Memory.read, List.mem_cons, Prod.mk.injEq]
    split
    · rename_i h; subst h; simp
    · rename_i h
      rw [ih]
      constructor
      · rintro ⟨b, hb⟩; exact ⟨b, .inr hb⟩
      · rintro ⟨b, hb | hb⟩
        · exact absurd hb.1.symm h
        · exact ⟨b, hb⟩

/-! ## Accesses -/

/-- Every address of an access is an address of the machine. -/
theorem State.span_lt (s : State) (a : s.XWord) (n : Nat) {c : Nat} (h : c ∈ s.span a n) : c < 2 ^ s.xlen.bits := by
  simp only [State.span, List.mem_map] at h
  obtain ⟨k, -, rfl⟩ := h
  exact BitVec.isLt _

/-- An access finds no invalid address exactly if every address of it is valid. -/
theorem Memory.lowestInvalid_eq_none {m : Memory} {l : List Nat} :
    Memory.lowestInvalid m l = none ↔ ∀ a ∈ l, (Memory.read m a).isSome := by
  simp [Memory.lowestInvalid, List.filter_eq_nil_iff, Option.isSome_iff_ne_none]

/-- The address an access reports is the lowest of its addresses outside the valid set (60 R423). -/
theorem Memory.lowestInvalid_eq_some {m : Memory} {l : List Nat} {a : Nat} :
    Memory.lowestInvalid m l = some a ↔
      (a ∈ l ∧ Memory.read m a = none) ∧ ∀ c ∈ l, Memory.read m c = none → a ≤ c := by
  rw [Memory.lowestInvalid, List.min?_eq_some_iff]
  simp [Option.isNone_iff_eq_none]

/-- What reading several bytes answers when all of them are valid. -/
theorem Memory.readAll_ok {m : Memory} {l : List Nat} (h : ∀ a ∈ l, (Memory.read m a).isSome) :
    Memory.readAll m l = .ok (l.filterMap (Memory.read m)) := by
  simp [Memory.readAll, Memory.lowestInvalid_eq_none.2 h]

/-- What reading several bytes answers when one of them is not valid. -/
theorem Memory.readAll_error {m : Memory} {l : List Nat} {a : Nat} (h : Memory.lowestInvalid m l = some a) :
    Memory.readAll m l = .error a := by
  simp [Memory.readAll, h]

/-! ## The ledgers of written and of fetched addresses -/

/-- An access finds nothing in a ledger exactly if none of its addresses is there. -/
theorem lowestIn_eq_none {ledger l : List Nat} : lowestIn ledger l = none ↔ ∀ a ∈ l, a ∉ ledger := by
  simp [lowestIn, List.filter_eq_nil_iff]

/-- The address an access finds in a ledger is the lowest of its addresses there. -/
theorem lowestIn_eq_some {ledger l : List Nat} {a : Nat} :
    lowestIn ledger l = some a ↔ (a ∈ l ∧ a ∈ ledger) ∧ ∀ c ∈ l, c ∈ ledger → a ≤ c := by
  rw [lowestIn, List.min?_eq_some_iff]
  simp

/-- What the ledger holds after an address is put into it. -/
@[simp] theorem mem_insertAddr {l : List Nat} {a c : Nat} : c ∈ insertAddr l a ↔ c = a ∨ c ∈ l := by
  induction l with
  | nil => simp [insertAddr]
  | cons k l ih =>
    simp only [insertAddr]
    split
    · simp
    · split
      · rename_i h; subst h; simp
      · simp only [List.mem_cons, ih]; tauto

/-- Putting an address into the ledger keeps it strictly rising. -/
theorem rising_insertAddr {l : List Nat} (h : Rising l) (a : Nat) : Rising (insertAddr l a) := by
  induction l with
  | nil => simp [insertAddr, Rising]
  | cons k l ih =>
    rw [Rising, List.pairwise_cons] at h
    simp only [insertAddr]
    split
    · rename_i hlt
      refine List.pairwise_cons.2 ⟨?_, List.pairwise_cons.2 h⟩
      intro c hc
      rcases List.mem_cons.1 hc with rfl | hc
      · exact hlt
      · exact Nat.lt_trans hlt (h.1 c hc)
    · split
      · exact List.pairwise_cons.2 h
      · rename_i h1 h2
        refine List.pairwise_cons.2 ⟨?_, ih h.2⟩
        intro c hc
        rcases mem_insertAddr.1 hc with rfl | hc
        · omega
        · exact h.1 c hc

/-- What the ledger holds after several addresses are put into it. -/
@[simp] theorem mem_foldl_insertAddr {l addrs : List Nat} {c : Nat} :
    c ∈ addrs.foldl insertAddr l ↔ c ∈ addrs ∨ c ∈ l := by
  induction addrs generalizing l with
  | nil => simp
  | cons a addrs ih => simp only [List.foldl_cons, ih, mem_insertAddr, List.mem_cons]; tauto

/-- Putting several addresses into the ledger keeps it strictly rising. -/
theorem rising_foldl_insertAddr {l : List Nat} (h : Rising l) (addrs : List Nat) :
    Rising (addrs.foldl insertAddr l) := by
  induction addrs generalizing l with
  | nil => exact h
  | cons a addrs ih => exact ih (rising_insertAddr h a)

/-! ## Updates and the invariant -/

/-- An instruction that retires keeps the invariant. -/
theorem State.inv_retire {s : State} (h : s.Inv) (rd : Reg) (v : s.XWord) : (s.retire rd v).Inv := by
  obtain ⟨h1, h2, h3, h4, h5, h6⟩ := h
  exact ⟨h1, h2, h3, h4, h5, (State.retire_slot0 s rd v).trans h6⟩

/-- A jump keeps the invariant. -/
theorem State.inv_jump {s : State} (h : s.Inv) (p : s.XWord) : (s.jump p).Inv := h

/-- A store to valid addresses of the machine that have not been fetched keeps the invariant. -/
theorem State.inv_storeBytes {s : State} (h : s.Inv) (l : List Nat) (bs : List Byte)
    (hl : ∀ a ∈ l, a < 2 ^ s.xlen.bits) (hv : ∀ a ∈ l, (s.readByte a).isSome) (hf : ∀ a ∈ l, a ∉ s.fetched) :
    (s.storeBytes l bs).Inv := by
  obtain ⟨h1, h2, h3, h4, h5, h6⟩ := h
  refine ⟨Memory.wf_writeAll h1 l bs hl, rising_foldl_insertAddr h2 l, ?_, h4, ?_, h6⟩
  · intro a ha
    refine Memory.isSome_read_writeAll s.mem l bs ?_
    rcases mem_foldl_insertAddr.1 ha with ha | ha
    · exact hv a ha
    · exact h3 a ha
  · intro a ha
    refine ⟨Memory.isSome_read_writeAll s.mem l bs (h5 a ha).1, fun hw => ?_⟩
    rcases mem_foldl_insertAddr.1 hw with hw | hw
    · exact hf a hw ha
    · exact (h5 a ha).2 hw

/-- Counting a word as fetched keeps the invariant where its addresses are valid and unwritten. -/
theorem State.inv_noteFetch {s : State} (h : s.Inv) (hv : ∀ a ∈ s.span s.pc 4, (s.readByte a).isSome)
    (hw : ∀ a ∈ s.span s.pc 4, a ∉ s.written) : s.noteFetch.Inv := by
  obtain ⟨h1, h2, h3, h4, h5, h6⟩ := h
  refine ⟨h1, h2, h3, rising_foldl_insertAddr h4 _, ?_, h6⟩
  intro a ha
  rcases mem_foldl_insertAddr.1 ha with ha | ha
  · exact ⟨hv a ha, hw a ha⟩
  · exact h5 a ha

/-- Placing a word keeps the invariant. -/
theorem State.inv_placeWord {s : State} (h : s.Inv) (w : InstrWord) : (s.placeWord w).Inv := by
  obtain ⟨h1, h2, h3, h4, h5, h6⟩ := h
  refine ⟨Memory.wf_writeAll h1 _ _ fun a ha => State.span_lt s _ 4 ha, List.Pairwise.filter _ h2, ?_, h4, ?_, h6⟩
  · intro a ha
    rw [State.placeWord_written, List.mem_filter] at ha
    exact Memory.isSome_read_writeAll s.mem _ _ (h3 a ha.1)
  · intro a ha
    refine ⟨Memory.isSome_read_writeAll s.mem _ _ (h5 a ha).1, fun hw => ?_⟩
    rw [State.placeWord_written, List.mem_filter] at hw
    exact (h5 a ha).2 hw.1

end Sys2Proof.Machine
end

