-- ==== Sys2Proof/Laws/Access.lean ====
section
/-!
SUPPORT. What a fetch, a companion load, a companion store and a branch answer.
-/
namespace Sys2Proof.Machine

/-! ## Fetch (20_memory.md R44) -/

/-- A misaligned pc is found before anything else (60 R422, R428). -/
theorem State.fetch_misaligned {s : State} (h : s.pc.toNat % 4 ≠ 0) :
    s.fetch = .fault (.instructionAddressMisaligned s.pc.toNat) := by
  simp [State.fetch, h]

/-- A fetch that touches an invalid address reports the lowest one (60 R423). -/
theorem State.fetch_invalid {s : State} {a : Nat} (h : s.pc.toNat % 4 = 0)
    (ha : Memory.lowestInvalid s.mem (s.span s.pc 4) = some a) :
    s.fetch = .fault (.accessFault s.pc.toNat a) := by
  simp [State.fetch, h, Memory.readAll_error ha]

/-- A fetch from valid addresses of which none has been written answers the word of their bytes. -/
theorem State.fetch_word {s : State} (h : s.pc.toNat % 4 = 0)
    (hv : ∀ a ∈ s.span s.pc 4, (s.readByte a).isSome) (hw : ∀ a ∈ s.span s.pc 4, a ∉ s.written) :
    s.fetch = .word (wordOfBytes ((s.span s.pc 4).filterMap s.readByte)) := by
  have hr : Memory.readAll s.mem (s.span s.pc 4) = .ok ((s.span s.pc 4).filterMap s.readByte) :=
    Memory.readAll_ok hv
  rw [State.fetch, if_neg (by omega), hr]
  simp only [lowestIn_eq_none.2 hw]

/-- A fetch from valid addresses of which one has been written is refused with the lowest such address (R50). -/
theorem State.fetch_stored {s : State} {a : Nat} (h : s.pc.toNat % 4 = 0)
    (hv : ∀ a ∈ s.span s.pc 4, (s.readByte a).isSome) (ha : lowestIn s.written (s.span s.pc 4) = some a) :
    s.fetch = .refused (.storedProgramText s.pc.toNat a) := by
  have hr : Memory.readAll s.mem (s.span s.pc 4) = .ok ((s.span s.pc 4).filterMap s.readByte) :=
    Memory.readAll_ok hv
  rw [State.fetch, if_neg (by omega), hr]
  simp only [ha]

/-- A fetch that answers a word found its addresses valid and unwritten. -/
theorem State.of_fetch_word {s : State} {w : InstrWord} (h : s.fetch = .word w) :
    (∀ a ∈ s.span s.pc 4, (s.readByte a).isSome) ∧ ∀ a ∈ s.span s.pc 4, a ∉ s.written := by
  rw [State.fetch] at h
  split at h
  · cases h
  · split at h
    · cases h
    · rename_i bs hr
      split at h
      · cases h
      · rename_i hn
        refine ⟨?_, lowestIn_eq_none.1 hn⟩
        unfold Memory.readAll at hr
        split at hr
        · cases hr
        · rename_i hl; exact Memory.lowestInvalid_eq_none.1 hl

/-- A step at a state whose fetch answers a word counts the word as fetched and runs it. -/
theorem step_of_word {s : State} {w : InstrWord} (h : s.fetch = .word w) : step s = runWord s.noteFetch w := by
  simp [step, h]

/-- A step at a state whose fetch raises a fault raises it. -/
theorem step_of_fault {s : State} {f : Fault} (h : s.fetch = .fault f) : step s = .fault f := by
  simp [step, h, raiseFault]

/-- Running a word that decodes is executing the instruction. -/
theorem runWord_of_decode {s : State} {w : InstrWord} {i : Instr} (h : decode s.xlen s.exts w = .ok i) :
    runWord s w = exec i s := by
  simp [runWord, h]

/-! ## Loads and stores (20_memory.md R43) -/

/-- A load from valid addresses. -/
theorem State.load_ok {s : State} (rd rs1 : Reg) (imm : BitVec 12) (n : Nat) (f : Nat → s.XWord)
    (h : ∀ a ∈ s.span (s.plusImm rs1 imm) n, (s.readByte a).isSome) :
    s.load rd rs1 imm n f = .next (s.retire rd (f (leValue ((s.span (s.plusImm rs1 imm) n).filterMap s.readByte)))) := by
  have hr : Memory.readAll s.mem (s.span (s.plusImm rs1 imm) n) =
      .ok ((s.span (s.plusImm rs1 imm) n).filterMap s.readByte) := Memory.readAll_ok h
  simp [State.load, hr, State.done]

/-- A load that touches an invalid address. -/
theorem State.load_fault {s : State} (rd rs1 : Reg) (imm : BitVec 12) (n : Nat) (f : Nat → s.XWord) {a : Nat}
    (h : Memory.lowestInvalid s.mem (s.span (s.plusImm rs1 imm) n) = some a) :
    s.load rd rs1 imm n f = .fault (.accessFault s.pc.toNat a) := by
  simp [State.load, Memory.readAll_error h, raiseFault]

/-- A store to valid addresses that have not been fetched. -/
theorem State.store_ok {s : State} (rs1 rs2 : Reg) (imm : BitVec 12) (n : Nat)
    (h : ∀ a ∈ s.span (s.plusImm rs1 imm) n, (s.readByte a).isSome)
    (hf : ∀ a ∈ s.span (s.plusImm rs1 imm) n, a ∉ s.fetched) :
    s.store rs1 rs2 imm n =
      .next ((s.storeBytes (s.span (s.plusImm rs1 imm) n) (leBytes n (s.x rs2).toNat)).jump (s.pc + 4#_)) := by
  simp only [State.store, Memory.lowestInvalid_eq_none.2 h, lowestIn_eq_none.2 hf]

/-- A store to valid addresses of which one has been fetched is refused with the lowest such address (R50). -/
theorem State.store_refused {s : State} (rs1 rs2 : Reg) (imm : BitVec 12) (n : Nat) {a : Nat}
    (h : ∀ a ∈ s.span (s.plusImm rs1 imm) n, (s.readByte a).isSome)
    (ha : lowestIn s.fetched (s.span (s.plusImm rs1 imm) n) = some a) :
    s.store rs1 rs2 imm n = .refused (.storeIntoFetchedText s.pc.toNat a) := by
  simp only [State.store, Memory.lowestInvalid_eq_none.2 h, ha]

/-- Everything a store that answers a next state did. -/
theorem State.of_store_next {s t : State} {rs1 rs2 : Reg} {imm : BitVec 12} {n : Nat} (h : s.store rs1 rs2 imm n = .next t) :
    (∀ a ∈ s.span (s.plusImm rs1 imm) n, (s.readByte a).isSome) ∧
    (∀ a ∈ s.span (s.plusImm rs1 imm) n, a ∉ s.fetched) ∧
    t = (s.storeBytes (s.span (s.plusImm rs1 imm) n) (leBytes n (s.x rs2).toNat)).jump (s.pc + 4#_) := by
  rw [State.store] at h
  split at h
  · cases h
  · rename_i hl
    split at h
    · cases h
    · rename_i hf
      cases h
      exact ⟨Memory.lowestInvalid_eq_none.1 hl, lowestIn_eq_none.1 hf, rfl⟩

/-- A store that touches an invalid address. -/
theorem State.store_fault {s : State} (rs1 rs2 : Reg) (imm : BitVec 12) (n : Nat) {a : Nat}
    (h : Memory.lowestInvalid s.mem (s.span (s.plusImm rs1 imm) n) = some a) :
    s.store rs1 rs2 imm n = .fault (.accessFault s.pc.toNat a) := by
  simp [State.store, h, raiseFault]

/-- A branch jumps to its target or past itself (49 R389). -/
theorem State.branch_eq (s : State) (c : Bool) (offset : BitVec 12) :
    s.branch c offset = .next (s.jump (s.pc + if c then (offset ++ 0#1).signExtend _ else 4#_)) := rfl

end Sys2Proof.Machine
end

