-- ==== Sys2Proof/Laws/Operands.lean ====
section
/-!
SUPPORT. What each operand form is, bit by bit.
-/
namespace Sys2Proof.Machine

/-- A shift amount lies in 0 .. N-1. -/
theorem shamt_lt {n m : Nat} (h : 0 < n) (b : BitVec m) : shamt n b < n := Nat.mod_lt _ h

/-- A funnel amount lies in 0 .. 2N-1. -/
theorem funnelAmount_lt {n m : Nat} (h : 0 < n) (b : BitVec m) : funnelAmount n b < 2 * n :=
  Nat.mod_lt _ (by omega)

/-- The low word has the low 32 bits. -/
@[simp] theorem getLsbD_lowWord {n : Nat} (v : BitVec n) (i : Nat) :
    (lowWord v).getLsbD i = (decide (i < 32) && v.getLsbD i) := by simp [lowWord]

/-- The zero-extended word has the low 32 bits and zeros above. -/
@[simp] theorem getLsbD_zextWord {n : Nat} (v : BitVec n) (i : Nat) :
    (zextWord v).getLsbD i = (decide (i < n) && decide (i < 32) && v.getLsbD i) := by
  simp [zextWord, Bool.and_assoc]

/-- The bits of a word sign-extended from its bit k-1. -/
theorem getLsbD_sextLow {k n : Nat} (hk : 0 < k) (v : BitVec n) (i : Nat) (hi : i < n) :
    (sextLow k v).getLsbD i = if i < k then v.getLsbD i else v.getLsbD (k - 1) := by
  have hk' : k - 1 < k := by omega
  simp only [sextLow, BitVec.getLsbD_signExtend, hi, decide_true, Bool.true_and, BitVec.getLsbD_setWidth,
    BitVec.msb_setWidth]
  split
  · simp_all
  · simp [hk]

/-- The bits of `bitsOf`. -/
@[simp] theorem getLsbD_bitsOf (n : Nat) (f : Nat → Bool) (i : Nat) :
    (bitsOf n f).getLsbD i = (decide (i < n) && f i) := by
  induction n with
  | zero => simp [bitsOf]
  | succ n ih =>
    rw [bitsOf, BitVec.getLsbD_cons, ih]
    by_cases h : i = n
    · subst h; simp
    · have : (i < n + 1) ↔ (i < n) := by omega
      simp [h, this]

/-- The bits of two halves joined. -/
theorem getLsbD_joinHalves {n : Nat} (hi lo : BitVec (n / 2)) (i : Nat) (h : i < n) :
    (joinHalves n hi lo).getLsbD i = if i < n / 2 then lo.getLsbD i else hi.getLsbD (i - n / 2) := by
  simp only [joinHalves, BitVec.getLsbD_setWidth, h, decide_true, Bool.true_and, BitVec.getLsbD_append]

/-- log2 of the two widths. -/
@[simp] theorem logWidth_32 : logWidth 32 = 5 := by decide
@[simp] theorem logWidth_64 : logWidth 64 = 6 := by decide

end Sys2Proof.Machine
end

