-- ==== Sys2Proof/Laws/PerInstr.lean ====
section
/-!
SUPPORT. A property of every instruction as syntax, one lemma per constructor: the word of an instruction has one of the four
major opcodes of 30_encoding.md R61.
-/
namespace Sys2Proof.Laws.MajorOpcode

/-- The word has one of the four major opcodes, at either width (R61). -/
def Statement (i : Instr) : Prop :=
  ∀ x : Xlen, opcodeOf (encode x i) ∈ [opOp, opImm, op32, opImm32]

/-- The opcode of a word put together from its fields. -/
theorem opcodeOf_wordOf (top : BitVec 12) (rs1 : Reg) (f3 : BitVec 3) (rd : Reg) (op : BitVec 7) :
    opcodeOf (wordOf top rs1 f3 rd op) = op := by
  ext i hi
  simp only [opcodeOf, wordOf, BitVec.getElem_extractLsb', BitVec.getLsbD_append]
  simp [hi]

/-- A word whose opcode is one of the four. -/
theorem of_wordOf {i : Instr} (h : ∀ x, ∃ top rs1 f3 rd op, encode x i = wordOf top rs1 f3 rd op ∧
    op ∈ [opOp, opImm, op32, opImm32]) : Statement i := by
  intro x
  obtain ⟨top, rs1, f3, rd, op, he, hop⟩ := h x
  rw [he, opcodeOf_wordOf]; exact hop

theorem clz (rd rs1 : Reg) : Statement (.clz rd rs1) := of_wordOf fun _ => ⟨_, _, _, _, _, rfl, by decide⟩
theorem ctz (rd rs1 : Reg) : Statement (.ctz rd rs1) := of_wordOf fun _ => ⟨_, _, _, _, _, rfl, by decide⟩
theorem clzw (rd rs1 : Reg) : Statement (.clzw rd rs1) := of_wordOf fun _ => ⟨_, _, _, _, _, rfl, by decide⟩
theorem ctzw (rd rs1 : Reg) : Statement (.ctzw rd rs1) := of_wordOf fun _ => ⟨_, _, _, _, _, rfl, by decide⟩
theorem cpop (rd rs1 : Reg) : Statement (.cpop rd rs1) := of_wordOf fun _ => ⟨_, _, _, _, _, rfl, by decide⟩
theorem cpopw (rd rs1 : Reg) : Statement (.cpopw rd rs1) := of_wordOf fun _ => ⟨_, _, _, _, _, rfl, by decide⟩
theorem andn (rd rs1 rs2 : Reg) : Statement (.andn rd rs1 rs2) := of_wordOf fun _ => ⟨_, _, _, _, _, rfl, by decide⟩
theorem orn (rd rs1 rs2 : Reg) : Statement (.orn rd rs1 rs2) := of_wordOf fun _ => ⟨_, _, _, _, _, rfl, by decide⟩
theorem xnor (rd rs1 rs2 : Reg) : Statement (.xnor rd rs1 rs2) := of_wordOf fun _ => ⟨_, _, _, _, _, rfl, by decide⟩
theorem pack (rd rs1 rs2 : Reg) : Statement (.pack rd rs1 rs2) := of_wordOf fun _ => ⟨_, _, _, _, _, rfl, by decide⟩
theorem packu (rd rs1 rs2 : Reg) : Statement (.packu rd rs1 rs2) := of_wordOf fun _ => ⟨_, _, _, _, _, rfl, by decide⟩
theorem packh (rd rs1 rs2 : Reg) : Statement (.packh rd rs1 rs2) := of_wordOf fun _ => ⟨_, _, _, _, _, rfl, by decide⟩
theorem packw (rd rs1 rs2 : Reg) : Statement (.packw rd rs1 rs2) := of_wordOf fun _ => ⟨_, _, _, _, _, rfl, by decide⟩
theorem packuw (rd rs1 rs2 : Reg) : Statement (.packuw rd rs1 rs2) := of_wordOf fun _ => ⟨_, _, _, _, _, rfl, by decide⟩
theorem min (rd rs1 rs2 : Reg) : Statement (.min rd rs1 rs2) := of_wordOf fun _ => ⟨_, _, _, _, _, rfl, by decide⟩
theorem minu (rd rs1 rs2 : Reg) : Statement (.minu rd rs1 rs2) := of_wordOf fun _ => ⟨_, _, _, _, _, rfl, by decide⟩
theorem max (rd rs1 rs2 : Reg) : Statement (.max rd rs1 rs2) := of_wordOf fun _ => ⟨_, _, _, _, _, rfl, by decide⟩
theorem maxu (rd rs1 rs2 : Reg) : Statement (.maxu rd rs1 rs2) := of_wordOf fun _ => ⟨_, _, _, _, _, rfl, by decide⟩
theorem sextB (rd rs1 : Reg) : Statement (.sextB rd rs1) := of_wordOf fun _ => ⟨_, _, _, _, _, rfl, by decide⟩
theorem sextH (rd rs1 : Reg) : Statement (.sextH rd rs1) := of_wordOf fun _ => ⟨_, _, _, _, _, rfl, by decide⟩
theorem bset (rd rs1 rs2 : Reg) : Statement (.bset rd rs1 rs2) := of_wordOf fun _ => ⟨_, _, _, _, _, rfl, by decide⟩
theorem bclr (rd rs1 rs2 : Reg) : Statement (.bclr rd rs1 rs2) := of_wordOf fun _ => ⟨_, _, _, _, _, rfl, by decide⟩
theorem binv (rd rs1 rs2 : Reg) : Statement (.binv rd rs1 rs2) := of_wordOf fun _ => ⟨_, _, _, _, _, rfl, by decide⟩
theorem bextZbs (rd rs1 rs2 : Reg) : Statement (.bextZbs rd rs1 rs2) := of_wordOf fun _ => ⟨_, _, _, _, _, rfl, by decide⟩
theorem bseti (rd rs1 : Reg) (imm : BitVec 6) : Statement (.bseti rd rs1 imm) := of_wordOf fun _ => ⟨_, _, _, _, _, rfl, by decide⟩
theorem bclri (rd rs1 : Reg) (imm : BitVec 6) : Statement (.bclri rd rs1 imm) := of_wordOf fun _ => ⟨_, _, _, _, _, rfl, by decide⟩
theorem binvi (rd rs1 : Reg) (imm : BitVec 6) : Statement (.binvi rd rs1 imm) := of_wordOf fun _ => ⟨_, _, _, _, _, rfl, by decide⟩
theorem bexti (rd rs1 : Reg) (imm : BitVec 6) : Statement (.bexti rd rs1 imm) := of_wordOf fun _ => ⟨_, _, _, _, _, rfl, by decide⟩
theorem bsetw (rd rs1 rs2 : Reg) : Statement (.bsetw rd rs1 rs2) := of_wordOf fun _ => ⟨_, _, _, _, _, rfl, by decide⟩
theorem bclrw (rd rs1 rs2 : Reg) : Statement (.bclrw rd rs1 rs2) := of_wordOf fun _ => ⟨_, _, _, _, _, rfl, by decide⟩
theorem binvw (rd rs1 rs2 : Reg) : Statement (.binvw rd rs1 rs2) := of_wordOf fun _ => ⟨_, _, _, _, _, rfl, by decide⟩
theorem bextwZbs (rd rs1 rs2 : Reg) : Statement (.bextwZbs rd rs1 rs2) := of_wordOf fun _ => ⟨_, _, _, _, _, rfl, by decide⟩
theorem bsetiw (rd rs1 : Reg) (imm : BitVec 5) : Statement (.bsetiw rd rs1 imm) := of_wordOf fun _ => ⟨_, _, _, _, _, rfl, by decide⟩
theorem bclriw (rd rs1 : Reg) (imm : BitVec 5) : Statement (.bclriw rd rs1 imm) := of_wordOf fun _ => ⟨_, _, _, _, _, rfl, by decide⟩
theorem binviw (rd rs1 : Reg) (imm : BitVec 5) : Statement (.binviw rd rs1 imm) := of_wordOf fun _ => ⟨_, _, _, _, _, rfl, by decide⟩
theorem slo (rd rs1 rs2 : Reg) : Statement (.slo rd rs1 rs2) := of_wordOf fun _ => ⟨_, _, _, _, _, rfl, by decide⟩
theorem sro (rd rs1 rs2 : Reg) : Statement (.sro rd rs1 rs2) := of_wordOf fun _ => ⟨_, _, _, _, _, rfl, by decide⟩
theorem sloi (rd rs1 : Reg) (imm : BitVec 6) : Statement (.sloi rd rs1 imm) := of_wordOf fun _ => ⟨_, _, _, _, _, rfl, by decide⟩
theorem sroi (rd rs1 : Reg) (imm : BitVec 6) : Statement (.sroi rd rs1 imm) := of_wordOf fun _ => ⟨_, _, _, _, _, rfl, by decide⟩
theorem slow (rd rs1 rs2 : Reg) : Statement (.slow rd rs1 rs2) := of_wordOf fun _ => ⟨_, _, _, _, _, rfl, by decide⟩
theorem srow (rd rs1 rs2 : Reg) : Statement (.srow rd rs1 rs2) := of_wordOf fun _ => ⟨_, _, _, _, _, rfl, by decide⟩
theorem sloiw (rd rs1 : Reg) (imm : BitVec 5) : Statement (.sloiw rd rs1 imm) := of_wordOf fun _ => ⟨_, _, _, _, _, rfl, by decide⟩
theorem sroiw (rd rs1 : Reg) (imm : BitVec 5) : Statement (.sroiw rd rs1 imm) := of_wordOf fun _ => ⟨_, _, _, _, _, rfl, by decide⟩
theorem rol (rd rs1 rs2 : Reg) : Statement (.rol rd rs1 rs2) := of_wordOf fun _ => ⟨_, _, _, _, _, rfl, by decide⟩
theorem ror (rd rs1 rs2 : Reg) : Statement (.ror rd rs1 rs2) := of_wordOf fun _ => ⟨_, _, _, _, _, rfl, by decide⟩
theorem rori (rd rs1 : Reg) (imm : BitVec 6) : Statement (.rori rd rs1 imm) := of_wordOf fun _ => ⟨_, _, _, _, _, rfl, by decide⟩
theorem rolw (rd rs1 rs2 : Reg) : Statement (.rolw rd rs1 rs2) := of_wordOf fun _ => ⟨_, _, _, _, _, rfl, by decide⟩
theorem rorw (rd rs1 rs2 : Reg) : Statement (.rorw rd rs1 rs2) := of_wordOf fun _ => ⟨_, _, _, _, _, rfl, by decide⟩
theorem roriw (rd rs1 : Reg) (imm : BitVec 5) : Statement (.roriw rd rs1 imm) := of_wordOf fun _ => ⟨_, _, _, _, _, rfl, by decide⟩
theorem grev (rd rs1 rs2 : Reg) : Statement (.grev rd rs1 rs2) := of_wordOf fun _ => ⟨_, _, _, _, _, rfl, by decide⟩
theorem grevi (rd rs1 : Reg) (imm : BitVec 6) : Statement (.grevi rd rs1 imm) := of_wordOf fun _ => ⟨_, _, _, _, _, rfl, by decide⟩
theorem grevw (rd rs1 rs2 : Reg) : Statement (.grevw rd rs1 rs2) := of_wordOf fun _ => ⟨_, _, _, _, _, rfl, by decide⟩
theorem greviw (rd rs1 : Reg) (imm : BitVec 5) : Statement (.greviw rd rs1 imm) := of_wordOf fun _ => ⟨_, _, _, _, _, rfl, by decide⟩
theorem gorc (rd rs1 rs2 : Reg) : Statement (.gorc rd rs1 rs2) := of_wordOf fun _ => ⟨_, _, _, _, _, rfl, by decide⟩
theorem gorci (rd rs1 : Reg) (imm : BitVec 6) : Statement (.gorci rd rs1 imm) := of_wordOf fun _ => ⟨_, _, _, _, _, rfl, by decide⟩
theorem gorcw (rd rs1 rs2 : Reg) : Statement (.gorcw rd rs1 rs2) := of_wordOf fun _ => ⟨_, _, _, _, _, rfl, by decide⟩
theorem gorciw (rd rs1 : Reg) (imm : BitVec 5) : Statement (.gorciw rd rs1 imm) := of_wordOf fun _ => ⟨_, _, _, _, _, rfl, by decide⟩
theorem shfl (rd rs1 rs2 : Reg) : Statement (.shfl rd rs1 rs2) := of_wordOf fun _ => ⟨_, _, _, _, _, rfl, by decide⟩
theorem unshfl (rd rs1 rs2 : Reg) : Statement (.unshfl rd rs1 rs2) := of_wordOf fun _ => ⟨_, _, _, _, _, rfl, by decide⟩
theorem shfli (rd rs1 : Reg) (imm : BitVec 5) : Statement (.shfli rd rs1 imm) := of_wordOf fun _ => ⟨_, _, _, _, _, rfl, by decide⟩
theorem unshfli (rd rs1 : Reg) (imm : BitVec 5) : Statement (.unshfli rd rs1 imm) := of_wordOf fun _ => ⟨_, _, _, _, _, rfl, by decide⟩
theorem shflw (rd rs1 rs2 : Reg) : Statement (.shflw rd rs1 rs2) := of_wordOf fun _ => ⟨_, _, _, _, _, rfl, by decide⟩
theorem unshflw (rd rs1 rs2 : Reg) : Statement (.unshflw rd rs1 rs2) := of_wordOf fun _ => ⟨_, _, _, _, _, rfl, by decide⟩
theorem xpermN (rd rs1 rs2 : Reg) : Statement (.xpermN rd rs1 rs2) := of_wordOf fun _ => ⟨_, _, _, _, _, rfl, by decide⟩
theorem xpermB (rd rs1 rs2 : Reg) : Statement (.xpermB rd rs1 rs2) := of_wordOf fun _ => ⟨_, _, _, _, _, rfl, by decide⟩
theorem xpermH (rd rs1 rs2 : Reg) : Statement (.xpermH rd rs1 rs2) := of_wordOf fun _ => ⟨_, _, _, _, _, rfl, by decide⟩
theorem xpermW (rd rs1 rs2 : Reg) : Statement (.xpermW rd rs1 rs2) := of_wordOf fun _ => ⟨_, _, _, _, _, rfl, by decide⟩
theorem bfp (rd rs1 rs2 : Reg) : Statement (.bfp rd rs1 rs2) := of_wordOf fun _ => ⟨_, _, _, _, _, rfl, by decide⟩
theorem bfpw (rd rs1 rs2 : Reg) : Statement (.bfpw rd rs1 rs2) := of_wordOf fun _ => ⟨_, _, _, _, _, rfl, by decide⟩
theorem bextZbe (rd rs1 rs2 : Reg) : Statement (.bextZbe rd rs1 rs2) := of_wordOf fun _ => ⟨_, _, _, _, _, rfl, by decide⟩
theorem bdep (rd rs1 rs2 : Reg) : Statement (.bdep rd rs1 rs2) := of_wordOf fun _ => ⟨_, _, _, _, _, rfl, by decide⟩
theorem bextwZbe (rd rs1 rs2 : Reg) : Statement (.bextwZbe rd rs1 rs2) := of_wordOf fun _ => ⟨_, _, _, _, _, rfl, by decide⟩
theorem bdepw (rd rs1 rs2 : Reg) : Statement (.bdepw rd rs1 rs2) := of_wordOf fun _ => ⟨_, _, _, _, _, rfl, by decide⟩
theorem clmul (rd rs1 rs2 : Reg) : Statement (.clmul rd rs1 rs2) := of_wordOf fun _ => ⟨_, _, _, _, _, rfl, by decide⟩
theorem clmulh (rd rs1 rs2 : Reg) : Statement (.clmulh rd rs1 rs2) := of_wordOf fun _ => ⟨_, _, _, _, _, rfl, by decide⟩
theorem clmulr (rd rs1 rs2 : Reg) : Statement (.clmulr rd rs1 rs2) := of_wordOf fun _ => ⟨_, _, _, _, _, rfl, by decide⟩
theorem crc32B (rd rs1 : Reg) : Statement (.crc32B rd rs1) := of_wordOf fun _ => ⟨_, _, _, _, _, rfl, by decide⟩
theorem crc32H (rd rs1 : Reg) : Statement (.crc32H rd rs1) := of_wordOf fun _ => ⟨_, _, _, _, _, rfl, by decide⟩
theorem crc32W (rd rs1 : Reg) : Statement (.crc32W rd rs1) := of_wordOf fun _ => ⟨_, _, _, _, _, rfl, by decide⟩
theorem crc32D (rd rs1 : Reg) : Statement (.crc32D rd rs1) := of_wordOf fun _ => ⟨_, _, _, _, _, rfl, by decide⟩
theorem crc32cB (rd rs1 : Reg) : Statement (.crc32cB rd rs1) := of_wordOf fun _ => ⟨_, _, _, _, _, rfl, by decide⟩
theorem crc32cH (rd rs1 : Reg) : Statement (.crc32cH rd rs1) := of_wordOf fun _ => ⟨_, _, _, _, _, rfl, by decide⟩
theorem crc32cW (rd rs1 : Reg) : Statement (.crc32cW rd rs1) := of_wordOf fun _ => ⟨_, _, _, _, _, rfl, by decide⟩
theorem crc32cD (rd rs1 : Reg) : Statement (.crc32cD rd rs1) := of_wordOf fun _ => ⟨_, _, _, _, _, rfl, by decide⟩
theorem bmatflip (rd rs1 : Reg) : Statement (.bmatflip rd rs1) := of_wordOf fun _ => ⟨_, _, _, _, _, rfl, by decide⟩
theorem bmatxor (rd rs1 rs2 : Reg) : Statement (.bmatxor rd rs1 rs2) := of_wordOf fun _ => ⟨_, _, _, _, _, rfl, by decide⟩
theorem bmator (rd rs1 rs2 : Reg) : Statement (.bmator rd rs1 rs2) := of_wordOf fun _ => ⟨_, _, _, _, _, rfl, by decide⟩
theorem cmix (rd rs1 rs2 rs3 : Reg) : Statement (.cmix rd rs1 rs2 rs3) := of_wordOf fun _ => ⟨_, _, _, _, _, rfl, by decide⟩
theorem cmov (rd rs1 rs2 rs3 : Reg) : Statement (.cmov rd rs1 rs2 rs3) := of_wordOf fun _ => ⟨_, _, _, _, _, rfl, by decide⟩
theorem fsl (rd rs1 rs2 rs3 : Reg) : Statement (.fsl rd rs1 rs2 rs3) := of_wordOf fun _ => ⟨_, _, _, _, _, rfl, by decide⟩
theorem fsr (rd rs1 rs2 rs3 : Reg) : Statement (.fsr rd rs1 rs2 rs3) := of_wordOf fun _ => ⟨_, _, _, _, _, rfl, by decide⟩
theorem fsri (rd rs1 rs3 : Reg) (imm : BitVec 6) : Statement (.fsri rd rs1 rs3 imm) := of_wordOf fun _ => ⟨_, _, _, _, _, rfl, by decide⟩
theorem fslw (rd rs1 rs2 rs3 : Reg) : Statement (.fslw rd rs1 rs2 rs3) := of_wordOf fun _ => ⟨_, _, _, _, _, rfl, by decide⟩
theorem fsrw (rd rs1 rs2 rs3 : Reg) : Statement (.fsrw rd rs1 rs2 rs3) := of_wordOf fun _ => ⟨_, _, _, _, _, rfl, by decide⟩
theorem fsriw (rd rs1 rs3 : Reg) (imm : BitVec 5) : Statement (.fsriw rd rs1 rs3 imm) := of_wordOf fun _ => ⟨_, _, _, _, _, rfl, by decide⟩
theorem sh1add (rd rs1 rs2 : Reg) : Statement (.sh1add rd rs1 rs2) := of_wordOf fun _ => ⟨_, _, _, _, _, rfl, by decide⟩
theorem sh2add (rd rs1 rs2 : Reg) : Statement (.sh2add rd rs1 rs2) := of_wordOf fun _ => ⟨_, _, _, _, _, rfl, by decide⟩
theorem sh3add (rd rs1 rs2 : Reg) : Statement (.sh3add rd rs1 rs2) := of_wordOf fun _ => ⟨_, _, _, _, _, rfl, by decide⟩
theorem sh1addUw (rd rs1 rs2 : Reg) : Statement (.sh1addUw rd rs1 rs2) := of_wordOf fun _ => ⟨_, _, _, _, _, rfl, by decide⟩
theorem sh2addUw (rd rs1 rs2 : Reg) : Statement (.sh2addUw rd rs1 rs2) := of_wordOf fun _ => ⟨_, _, _, _, _, rfl, by decide⟩
theorem sh3addUw (rd rs1 rs2 : Reg) : Statement (.sh3addUw rd rs1 rs2) := of_wordOf fun _ => ⟨_, _, _, _, _, rfl, by decide⟩
theorem addUw (rd rs1 rs2 : Reg) : Statement (.addUw rd rs1 rs2) := of_wordOf fun _ => ⟨_, _, _, _, _, rfl, by decide⟩
theorem slliUw (rd rs1 : Reg) (imm : BitVec 6) : Statement (.slliUw rd rs1 imm) := of_wordOf fun _ => ⟨_, _, _, _, _, rfl, by decide⟩
theorem and (rd rs1 rs2 : Reg) : Statement (.and rd rs1 rs2) := of_wordOf fun _ => ⟨_, _, _, _, _, rfl, by decide⟩
theorem or (rd rs1 rs2 : Reg) : Statement (.or rd rs1 rs2) := of_wordOf fun _ => ⟨_, _, _, _, _, rfl, by decide⟩
theorem xor (rd rs1 rs2 : Reg) : Statement (.xor rd rs1 rs2) := of_wordOf fun _ => ⟨_, _, _, _, _, rfl, by decide⟩
theorem sll (rd rs1 rs2 : Reg) : Statement (.sll rd rs1 rs2) := of_wordOf fun _ => ⟨_, _, _, _, _, rfl, by decide⟩
theorem srl (rd rs1 rs2 : Reg) : Statement (.srl rd rs1 rs2) := of_wordOf fun _ => ⟨_, _, _, _, _, rfl, by decide⟩
theorem sra (rd rs1 rs2 : Reg) : Statement (.sra rd rs1 rs2) := of_wordOf fun _ => ⟨_, _, _, _, _, rfl, by decide⟩
theorem slli (rd rs1 : Reg) (imm : BitVec 6) : Statement (.slli rd rs1 imm) := of_wordOf fun _ => ⟨_, _, _, _, _, rfl, by decide⟩
theorem srli (rd rs1 : Reg) (imm : BitVec 6) : Statement (.srli rd rs1 imm) := of_wordOf fun _ => ⟨_, _, _, _, _, rfl, by decide⟩
theorem srai (rd rs1 : Reg) (imm : BitVec 6) : Statement (.srai rd rs1 imm) := of_wordOf fun _ => ⟨_, _, _, _, _, rfl, by decide⟩
theorem zextH (rd rs1 : Reg) : Statement (.zextH rd rs1) := of_wordOf fun x => ⟨_, _, _, _, _, rfl, by cases x <;> decide⟩
theorem rev8 (rd rs1 : Reg) : Statement (.rev8 rd rs1) := of_wordOf fun _ => ⟨_, _, _, _, _, rfl, by decide⟩
theorem orcB (rd rs1 : Reg) : Statement (.orcB rd rs1) := of_wordOf fun _ => ⟨_, _, _, _, _, rfl, by decide⟩
theorem unzip8 (rd rs1 : Reg) : Statement (.unzip8 rd rs1) := of_wordOf fun _ => ⟨_, _, _, _, _, rfl, by decide⟩
theorem unzip16 (rd rs1 : Reg) : Statement (.unzip16 rd rs1) := of_wordOf fun _ => ⟨_, _, _, _, _, rfl, by decide⟩

end Sys2Proof.Laws.MajorOpcode
end

