-- ==== Sys2Proof/Tests/Slice0.lean ====
section
/-!
SUPPORT. Tests: ill-formed terms that each WellFormed check refuses; decoding of words written out bit by bit from the
patterns of the spec (30_encoding.md R92, opcode_table.json); single steps on the operands of the worked examples of the
spec; and, for each statement with hypotheses, a state and operands that meet them.
-/

set_option maxRecDepth 20000

namespace Sys2Proof.Tests

open Sys2Proof Sys2Proof.Machine

/-! ## WellFormed refuses -/

/-- widthOk: clzw is no instruction on RV32 (R85). -/
theorem test_wellformed_width : (Instr.clzw 1 2).widthOk .rv32 = false := by decide

/-- immOk: a shift amount of 32 does not fit RV32, nor does a shuffle control of 16 (R71, R72). -/
theorem test_wellformed_immediate :
    (Instr.rori 1 2 32#6).immOk .rv32 = false ∧ (Instr.shfli 1 2 16#5).immOk .rv32 = false := by decide

/-- nameOk: the word of `pack rd, rs1, x0` on RV32 stands under the name zext.h (R341). -/
theorem test_wellformed_name : (Instr.pack 1 2 0).nameOk .rv32 = false := by decide

/-- extsOk: clmul needs Zbc (R83). -/
theorem test_wellformed_exts : (Instr.clmul 1 2 3).extsOk .rv64 { Exts.bAll with zbc := false } = false := by decide

/-! ## Decoding of words written out from the spec, with rd = 10, rs1 = 11, rs2 = 12, rs3 = 13 -/

/-- Every word decodes to its instruction, and is the word the encoder writes. -/
def reads (x : Xlen) (l : List (InstrWord × Instr)) : Bool :=
  l.all fun (w, i) =>
    (match decode x .bAll w with
      | .ok j => decide (j = i)
      | .error _ => false) && encode x i == w

/-- The words of Machine/Basic.lean, RV64. -/
theorem test_decode_basic : reads .rv64 [
    (0b0110000_00000_01011_001_01010_0010011#32, .clz 10 11),
    (0b0110000_00001_01011_001_01010_0010011#32, .ctz 10 11),
    (0b0110000_00000_01011_001_01010_0011011#32, .clzw 10 11),
    (0b0110000_00001_01011_001_01010_0011011#32, .ctzw 10 11),
    (0b0110000_00010_01011_001_01010_0010011#32, .cpop 10 11),
    (0b0110000_00010_01011_001_01010_0011011#32, .cpopw 10 11),
    (0b0100000_01100_01011_111_01010_0110011#32, .andn 10 11 12),
    (0b0100000_01100_01011_110_01010_0110011#32, .orn 10 11 12),
    (0b0100000_01100_01011_100_01010_0110011#32, .xnor 10 11 12),
    (0b0000100_01100_01011_100_01010_0110011#32, .pack 10 11 12),
    (0b0100100_01100_01011_100_01010_0110011#32, .packu 10 11 12),
    (0b0000100_01100_01011_111_01010_0110011#32, .packh 10 11 12),
    (0b0000100_01100_01011_100_01010_0111011#32, .packw 10 11 12),
    (0b0100100_01100_01011_100_01010_0111011#32, .packuw 10 11 12),
    (0b0000101_01100_01011_100_01010_0110011#32, .min 10 11 12),
    (0b0000101_01100_01011_101_01010_0110011#32, .minu 10 11 12),
    (0b0000101_01100_01011_110_01010_0110011#32, .max 10 11 12),
    (0b0000101_01100_01011_111_01010_0110011#32, .maxu 10 11 12),
    (0b0110000_00100_01011_001_01010_0010011#32, .sextB 10 11),
    (0b0110000_00101_01011_001_01010_0010011#32, .sextH 10 11)] = true := by decide

/-- The words of Machine/SingleBit.lean, RV64. -/
theorem test_decode_single_bit : reads .rv64 [
    (0b0010100_01100_01011_001_01010_0110011#32, .bset 10 11 12),
    (0b0100100_01100_01011_001_01010_0110011#32, .bclr 10 11 12),
    (0b0110100_01100_01011_001_01010_0110011#32, .binv 10 11 12),
    (0b0100100_01100_01011_101_01010_0110011#32, .bextZbs 10 11 12),
    (0b0010101_01101_01011_001_01010_0010011#32, .bseti 10 11 45#6),
    (0b0100101_01101_01011_001_01010_0010011#32, .bclri 10 11 45#6),
    (0b0110101_01101_01011_001_01010_0010011#32, .binvi 10 11 45#6),
    (0b0100101_01101_01011_101_01010_0010011#32, .bexti 10 11 45#6),
    (0b0010100_01100_01011_001_01010_0111011#32, .bsetw 10 11 12),
    (0b0100100_01100_01011_001_01010_0111011#32, .bclrw 10 11 12),
    (0b0110100_01100_01011_001_01010_0111011#32, .binvw 10 11 12),
    (0b0100100_01100_01011_101_01010_0111011#32, .bextwZbs 10 11 12),
    (0b0010100_10110_01011_001_01010_0011011#32, .bsetiw 10 11 22#5),
    (0b0100100_10110_01011_001_01010_0011011#32, .bclriw 10 11 22#5),
    (0b0110100_10110_01011_001_01010_0011011#32, .binviw 10 11 22#5),
    (0b0010000_01100_01011_001_01010_0110011#32, .slo 10 11 12),
    (0b0010000_01100_01011_101_01010_0110011#32, .sro 10 11 12),
    (0b0010001_01101_01011_001_01010_0010011#32, .sloi 10 11 45#6),
    (0b0010001_01101_01011_101_01010_0010011#32, .sroi 10 11 45#6),
    (0b0010000_01100_01011_001_01010_0111011#32, .slow 10 11 12),
    (0b0010000_01100_01011_101_01010_0111011#32, .srow 10 11 12),
    (0b0010000_10110_01011_001_01010_0011011#32, .sloiw 10 11 22#5),
    (0b0010000_10110_01011_101_01010_0011011#32, .sroiw 10 11 22#5)] = true := by decide

/-- The words of Machine/Rotate.lean, RV64. -/
theorem test_decode_rotate : reads .rv64 [
    (0b0110000_01100_01011_001_01010_0110011#32, .rol 10 11 12),
    (0b0110000_01100_01011_101_01010_0110011#32, .ror 10 11 12),
    (0b0110001_01101_01011_101_01010_0010011#32, .rori 10 11 45#6),
    (0b0110000_01100_01011_001_01010_0111011#32, .rolw 10 11 12),
    (0b0110000_01100_01011_101_01010_0111011#32, .rorw 10 11 12),
    (0b0110000_10110_01011_101_01010_0011011#32, .roriw 10 11 22#5),
    (0b0110100_01100_01011_101_01010_0110011#32, .grev 10 11 12),
    (0b0110101_01101_01011_101_01010_0010011#32, .grevi 10 11 45#6),
    (0b0110100_01100_01011_101_01010_0111011#32, .grevw 10 11 12),
    (0b0110100_10110_01011_101_01010_0011011#32, .greviw 10 11 22#5),
    (0b0010100_01100_01011_101_01010_0110011#32, .gorc 10 11 12),
    (0b0010101_01101_01011_101_01010_0010011#32, .gorci 10 11 45#6),
    (0b0010100_01100_01011_101_01010_0111011#32, .gorcw 10 11 12),
    (0b0010100_10110_01011_101_01010_0011011#32, .gorciw 10 11 22#5)] = true := by decide

/-- The words of Machine/Shuffle.lean, RV64. -/
theorem test_decode_shuffle : reads .rv64 [
    (0b0000100_01100_01011_001_01010_0110011#32, .shfl 10 11 12),
    (0b0000100_01100_01011_101_01010_0110011#32, .unshfl 10 11 12),
    (0b0000100_10110_01011_001_01010_0010011#32, .shfli 10 11 22#5),
    (0b0000100_10110_01011_101_01010_0010011#32, .unshfli 10 11 22#5),
    (0b0000100_01100_01011_001_01010_0111011#32, .shflw 10 11 12),
    (0b0000100_01100_01011_101_01010_0111011#32, .unshflw 10 11 12),
    (0b0010100_01100_01011_010_01010_0110011#32, .xpermN 10 11 12),
    (0b0010100_01100_01011_100_01010_0110011#32, .xpermB 10 11 12),
    (0b0010100_01100_01011_110_01010_0110011#32, .xpermH 10 11 12),
    (0b0010100_01100_01011_000_01010_0110011#32, .xpermW 10 11 12)] = true := by decide

/-- The words of Machine/BitField.lean, RV64. -/
theorem test_decode_bit_field : reads .rv64 [
    (0b0100100_01100_01011_111_01010_0110011#32, .bfp 10 11 12),
    (0b0100100_01100_01011_111_01010_0111011#32, .bfpw 10 11 12),
    (0b0000100_01100_01011_110_01010_0110011#32, .bextZbe 10 11 12),
    (0b0100100_01100_01011_110_01010_0110011#32, .bdep 10 11 12),
    (0b0000100_01100_01011_110_01010_0111011#32, .bextwZbe 10 11 12),
    (0b0100100_01100_01011_110_01010_0111011#32, .bdepw 10 11 12)] = true := by decide

/-- The words of Machine/Clmul.lean, RV64. -/
theorem test_decode_clmul : reads .rv64 [
    (0b0000101_01100_01011_001_01010_0110011#32, .clmul 10 11 12),
    (0b0000101_01100_01011_011_01010_0110011#32, .clmulh 10 11 12),
    (0b0000101_01100_01011_010_01010_0110011#32, .clmulr 10 11 12),
    (0b0110000_10000_01011_001_01010_0010011#32, .crc32B 10 11),
    (0b0110000_10001_01011_001_01010_0010011#32, .crc32H 10 11),
    (0b0110000_10010_01011_001_01010_0010011#32, .crc32W 10 11),
    (0b0110000_10011_01011_001_01010_0010011#32, .crc32D 10 11),
    (0b0110000_11000_01011_001_01010_0010011#32, .crc32cB 10 11),
    (0b0110000_11001_01011_001_01010_0010011#32, .crc32cH 10 11),
    (0b0110000_11010_01011_001_01010_0010011#32, .crc32cW 10 11),
    (0b0110000_11011_01011_001_01010_0010011#32, .crc32cD 10 11),
    (0b0110000_00011_01011_001_01010_0010011#32, .bmatflip 10 11),
    (0b0100100_01100_01011_011_01010_0110011#32, .bmatxor 10 11 12),
    (0b0000100_01100_01011_011_01010_0110011#32, .bmator 10 11 12)] = true := by decide

/-- The words of Machine/Ternary.lean, RV64. -/
theorem test_decode_ternary : reads .rv64 [
    (0b0110111_01100_01011_001_01010_0110011#32, .cmix 10 11 12 13),
    (0b0110111_01100_01011_101_01010_0110011#32, .cmov 10 11 12 13),
    (0b0110110_01100_01011_001_01010_0110011#32, .fsl 10 11 12 13),
    (0b0110110_01100_01011_101_01010_0110011#32, .fsr 10 11 12 13),
    (0b0110111_01101_01011_101_01010_0010011#32, .fsri 10 11 13 45#6),
    (0b0110110_01100_01011_001_01010_0111011#32, .fslw 10 11 12 13),
    (0b0110110_01100_01011_101_01010_0111011#32, .fsrw 10 11 12 13),
    (0b0110110_10110_01011_101_01010_0011011#32, .fsriw 10 11 13 22#5)] = true := by decide

/-- The words of Machine/Address.lean, RV64. -/
theorem test_decode_address : reads .rv64 [
    (0b0010000_01100_01011_010_01010_0110011#32, .sh1add 10 11 12),
    (0b0010000_01100_01011_100_01010_0110011#32, .sh2add 10 11 12),
    (0b0010000_01100_01011_110_01010_0110011#32, .sh3add 10 11 12),
    (0b0010000_01100_01011_010_01010_0111011#32, .sh1addUw 10 11 12),
    (0b0010000_01100_01011_100_01010_0111011#32, .sh2addUw 10 11 12),
    (0b0010000_01100_01011_110_01010_0111011#32, .sh3addUw 10 11 12),
    (0b0000100_01100_01011_000_01010_0111011#32, .addUw 10 11 12),
    (0b0000101_01101_01011_001_01010_0011011#32, .slliUw 10 11 45#6)] = true := by decide

/-- The words of Machine/BaseIsa.lean, RV64. -/
theorem test_decode_base_isa : reads .rv64 [
    (0b0000000_01100_01011_111_01010_0110011#32, .and 10 11 12),
    (0b0000000_01100_01011_110_01010_0110011#32, .or 10 11 12),
    (0b0000000_01100_01011_100_01010_0110011#32, .xor 10 11 12),
    (0b0000000_01100_01011_001_01010_0110011#32, .sll 10 11 12),
    (0b0000000_01100_01011_101_01010_0110011#32, .srl 10 11 12),
    (0b0100000_01100_01011_101_01010_0110011#32, .sra 10 11 12),
    (0b0000001_01101_01011_001_01010_0010011#32, .slli 10 11 45#6),
    (0b0000001_01101_01011_101_01010_0010011#32, .srli 10 11 45#6),
    (0b0100001_01101_01011_101_01010_0010011#32, .srai 10 11 45#6)] = true := by decide

/-- The words of Machine/PseudoWord.lean, RV64. -/
theorem test_decode_pseudo_word : reads .rv64 [
    (0b0000100_00000_01011_100_01010_0111011#32, .zextH 10 11),
    (0b0110101_11000_01011_101_01010_0010011#32, .rev8 10 11),
    (0b0010100_00111_01011_101_01010_0010011#32, .orcB 10 11),
    (0b0000100_11000_01011_101_01010_0010011#32, .unzip8 10 11),
    (0b0000100_10000_01011_101_01010_0010011#32, .unzip16 10 11)] = true := by decide

/-- The words whose pattern differs on RV32 (R71, R72, R341). -/
theorem test_decode_rv32 : reads .rv32 [
    (0b0010100_01101_01011_001_01010_0010011#32, .bseti 10 11 13#6),
    (0b0100100_01101_01011_001_01010_0010011#32, .bclri 10 11 13#6),
    (0b0110100_01101_01011_001_01010_0010011#32, .binvi 10 11 13#6),
    (0b0100100_01101_01011_101_01010_0010011#32, .bexti 10 11 13#6),
    (0b0010000_01101_01011_001_01010_0010011#32, .sloi 10 11 13#6),
    (0b0010000_01101_01011_101_01010_0010011#32, .sroi 10 11 13#6),
    (0b0110000_01101_01011_101_01010_0010011#32, .rori 10 11 13#6),
    (0b0110100_01101_01011_101_01010_0010011#32, .grevi 10 11 13#6),
    (0b0010100_01101_01011_101_01010_0010011#32, .gorci 10 11 13#6),
    (0b0000100_00110_01011_001_01010_0010011#32, .shfli 10 11 6#5),
    (0b0000100_00110_01011_101_01010_0010011#32, .unshfli 10 11 6#5),
    (0b0000000_01101_01011_001_01010_0010011#32, .slli 10 11 13#6),
    (0b0000000_01101_01011_101_01010_0010011#32, .srli 10 11 13#6),
    (0b0100000_01101_01011_101_01010_0010011#32, .srai 10 11 13#6),
    (0b0000100_00000_01011_100_01010_0110011#32, .zextH 10 11),
    (0b0110100_11000_01011_101_01010_0010011#32, .rev8 10 11)] = true := by decide

/-- Words of the companion instructions the spec prints (49 R380 to R391) and of the control and memory forms. -/
theorem test_decode_companion :
    Companion.decode .rv32 0x00c58533#32 = some (.add 10 11 12) ∧
    Companion.decode .rv32 0xfff58513#32 = some (.addi 10 11 0xfff#12) ∧
    Companion.decode .rv64 0x0bcda537#32 = some (.lui 10 0x0bcda#20) ∧
    Companion.decode .rv32 0x40c58533#32 = some (.sub 10 11 12) ∧
    Companion.decode .rv64 0x0ff5f513#32 = some (.andi 10 11 255#12) ∧
    Companion.decode .rv32 0x00052f83#32 = some (.lw 31 10 0#12) ∧
    Companion.decode .rv64 0x02c58533#32 = some (.mul 10 11 12) ∧
    Companion.decode .rv64 0x00008067#32 = some .ret := by decide

/-! ## Single steps on the worked examples -/

/-- A state with a program counter of 0x1000, the given values in a1, a2, a3, 0 in x0 and 0x5555 in every other register. -/
def st (x : Xlen) (a1 a2 a3 : Nat) : State :=
  .launch x .bAll [] (BitVec.ofNat _ 0x1000)
    (((((Vector.replicate 32 (BitVec.ofNat _ 0x5555)).set 0 0#_).set 11 (BitVec.ofNat _ a1)).set 12 (BitVec.ofNat _ a2)).set
      13 (BitVec.ofNat _ a3))

/-- Each word, run with the values in a1, a2, a3, leaves the last value in a0 and moves the pc by 4. -/
def gives (x : Xlen) (l : List (InstrWord × Nat × Nat × Nat × Nat)) : Bool :=
  l.all fun (w, a1, a2, a3, v) =>
    match runWord (st x a1 a2 a3) w with
    | .next t => (t.x 10).toNat == v && t.pc.toNat == 0x1004
    | _ => false

/-- Examples of the rules of 40. -/
theorem test_step_basic_rv32_a : gives .rv32 [
    (0x60059513#32, 0x00010000, 0, 0, 15),
    (0x60159513#32, 0x00010000, 0, 0, 16),
    (0x60259513#32, 0xf000000f, 0, 0, 8),
    (0x40c5f533#32, 0xff00ff00, 0x0ff00ff0, 0, 0xf000f000),
    (0x40c5e533#32, 0xff00ff00, 0x0ff00ff0, 0, 0xff0fff0f),
    (0x40c5c533#32, 0xff00ff00, 0x0ff00ff0, 0, 0x0f0f0f0f),
    (0x08c5c533#32, 0x12345678, 0x9abcdef0, 0, 0xdef05678),
    (0x48c5c533#32, 0x12345678, 0x9abcdef0, 0, 0x9abc1234),
    (0x08c5f533#32, 0x12345678, 0x9abcdef0, 0, 0x0000f078),
    (0x0ac5c533#32, 0xffffffff, 0x00000001, 0, 0xffffffff),
    (0x0ac5d533#32, 0xffffffff, 0x00000001, 0, 0x00000001),
    (0x0ac5e533#32, 0xffffffff, 0x00000001, 0, 0x00000001),
    (0x0ac5f533#32, 0xffffffff, 0x00000001, 0, 0xffffffff),
    (0x60459513#32, 0x12345680, 0, 0, 0xffffff80)] = true := by decide

/-- Examples of the rules of 40. -/
theorem test_step_basic_rv32_b : gives .rv32 [
    (0x60559513#32, 0x12348000, 0, 0, 0xffff8000)] = true := by decide

/-- Examples of the rules of 40. -/
theorem test_step_basic_rv64_a : gives .rv64 [
    (0x60059513#32, 0x0000000000010000, 0, 0, 47),
    (0x60159513#32, 0x8000000000000000, 0, 0, 63),
    (0x6005951b#32, 0xffffffff00010000, 0, 0, 15),
    (0x6005951b#32, 0xffffffff00000000, 0, 0, 32),
    (0x6015951b#32, 0x0000000100000000, 0, 0, 32),
    (0x6015951b#32, 0xffffffff00010000, 0, 0, 16),
    (0x60259513#32, 0xffffffffffffffff, 0, 0, 64),
    (0x6025951b#32, 0xffffffff0000000f, 0, 0, 4),
    (0x08c5c533#32, 0x1122334455667788, 0x99aabbccddeeff00, 0, 0xddeeff0055667788),
    (0x48c5c533#32, 0x1122334455667788, 0x99aabbccddeeff00, 0, 0x99aabbcc11223344),
    (0x08c5c53b#32, 0x1122334455667788, 0x99aabbccddeeff00, 0, 0xffffffffff007788),
    (0x08c5c53b#32, 0x1122334455667788, 0x99aabbccddee7f00, 0, 0x000000007f007788),
    (0x48c5c53b#32, 0x1122334455667788, 0x99aabbccddeeff00, 0, 0xffffffffddee5566),
    (0x48c5c53b#32, 0x1122334455667788, 0x99aabbcc5deeff00, 0, 0x000000005dee5566)] = true := by decide

/-- Examples of the rules of 40. -/
theorem test_step_basic_rv64_b : gives .rv64 [
    (0x0ac5e533#32, 0x8000000000000000, 0x7fffffffffffffff, 0, 0x7fffffffffffffff),
    (0x60459513#32, 0x123456780000007f, 0, 0, 0x000000000000007f),
    (0x60559513#32, 0x1234567800007fff, 0, 0, 0x0000000000007fff)] = true := by decide

/-- Examples of the rules of 41. -/
theorem test_step_single_bit_rv32 : gives .rv32 [
    (0x28c59533#32, 0x00000000, 0x00000025, 0, 0x00000020),
    (0x48c59533#32, 0xffffffff, 0x0000001f, 0, 0x7fffffff),
    (0x68c59533#32, 0x0000ffff, 0x00000047, 0, 0x0000ff7f),
    (0x48c5d533#32, 0x00000080, 0x00000007, 0, 0x00000001),
    (0x29f59513#32, 0, 0, 0, 0x80000000),
    (0x48059513#32, 0xffffffff, 0, 0, 0xfffffffe),
    (0x69f59513#32, 0x80000000, 0, 0, 0x00000000),
    (0x4905d513#32, 0x00010000, 0, 0, 1),
    (0x20c59533#32, 0x00000001, 4, 0, 0x0000001f),
    (0x20c5d533#32, 0x80000000, 4, 0, 0xf8000000),
    (0x20859513#32, 0xf0f0f0f0, 0, 0, 0xf0f0f0ff),
    (0x2085d513#32, 0xf0f0f0f0, 0, 0, 0xfff0f0f0)] = true := by decide

/-- Examples of the rules of 41. -/
theorem test_step_single_bit_rv64_a : gives .rv64 [
    (0x28c59533#32, 0x00000000, 0x00000025, 0, 0x0000002000000000),
    (0x48c5d533#32, 0x8000000000000000, 0x7f, 0, 1),
    (0x2bf59513#32, 0, 0, 0, 0x8000000000000000),
    (0x4a059513#32, 0xffffffffffffffff, 0, 0, 0xfffffffeffffffff),
    (0x6a859513#32, 0, 0, 0, 0x0000010000000000),
    (0x4a05d513#32, 0x0000000100000000, 0, 0, 1),
    (0x28c5953b#32, 0, 31, 0, 0xffffffff80000000),
    (0x28c5953b#32, 0x1234567800000000, 0x23, 0, 0x0000000000000008),
    (0x48c5953b#32, 0xffffffffffffffff, 31, 0, 0x000000007fffffff),
    (0x48c5953b#32, 0x00000000ffffffff, 0, 0, 0xfffffffffffffffe),
    (0x68c5953b#32, 0x0000000080000000, 31, 0, 0),
    (0x68c5953b#32, 0, 63, 0, 0xffffffff80000000),
    (0x48c5d53b#32, 0x0000000800000001, 0x23, 0, 0),
    (0x48c5d53b#32, 0x0000000080000000, 31, 0, 1)] = true := by decide

/-- Examples of the rules of 41. -/
theorem test_step_single_bit_rv64_b : gives .rv64 [
    (0x29f5951b#32, 0, 0, 0, 0xffffffff80000000),
    (0x49f5951b#32, 0x00000000ffffffff, 0, 0, 0x000000007fffffff),
    (0x69f5951b#32, 0xffffffff00000000, 0, 0, 0xffffffff80000000),
    (0x6845951b#32, 0x12345678, 0, 0, 0x0000000012345668),
    (0x20c59533#32, 0, 36, 0, 0x0000000fffffffff),
    (0x20c5d533#32, 0, 60, 0, 0xfffffffffffffff0),
    (0x23f59513#32, 0, 0, 0, 0x7fffffffffffffff),
    (0x2215d513#32, 0, 0, 0, 0xffffffff80000000),
    (0x20c5953b#32, 0x0000000000000100, 4, 0, 0x000000000000100f),
    (0x20c5953b#32, 0x1111111100000001, 31, 0, 0xffffffffffffffff),
    (0x20c5d53b#32, 0x0000000040000000, 1, 0, 0xffffffffa0000000),
    (0x20c5d53b#32, 0x0000000040000000, 0, 0, 0x0000000040000000),
    (0x21f5951b#32, 0, 0, 0, 0x000000007fffffff),
    (0x2085951b#32, 0x0000000000ffff00, 0, 0, 0xffffffffffff00ff)] = true := by decide

/-- Examples of the rules of 41. -/
theorem test_step_single_bit_rv64_c : gives .rv64 [
    (0x2015d51b#32, 0xabcdef0100000000, 0, 0, 0xffffffff80000000),
    (0x2085d51b#32, 0x0000000000ffff00, 0, 0, 0xffffffffff00ffff)] = true := by decide

/-- Examples of the rules of 42. -/
theorem test_step_rotate_rv32 : gives .rv32 [
    (0x60c59533#32, 0x12345678, 8, 0, 0x34567812),
    (0x60c5d533#32, 0x12345678, 8, 0, 0x78123456),
    (0x61f5d513#32, 0x12345678, 0, 0, 0x2468acf0),
    (0x68c5d533#32, 0x12345678, 0x18, 0, 0x78563412),
    (0x6985d513#32, 0x12345678, 0, 0, 0x78563412),
    (0x28c5d533#32, 0x00120000, 7, 0, 0x00ff0000),
    (0x2875d513#32, 0x00120000, 0, 0, 0x00ff0000)] = true := by decide

/-- Examples of the rules of 42. -/
theorem test_step_rotate_rv64_a : gives .rv64 [
    (0x60c59533#32, 0x123456789abcdef0, 40, 0, 0xbcdef0123456789a),
    (0x60c5d533#32, 0x123456789abcdef0, 4, 0, 0x0123456789abcdef),
    (0x6015d513#32, 1, 0, 0, 0x8000000000000000),
    (0x60c5953b#32, 0xaaaaaaaa80000001, 1, 0, 0x0000000000000003),
    (0x60c5953b#32, 0x12345678, 36, 0, 0x0000000023456781),
    (0x60c5d53b#32, 1, 1, 0, 0xffffffff80000000),
    (0x60c5d53b#32, 0xffffffff12345678, 8, 0, 0x0000000078123456),
    (0x6045d51b#32, 0x12345678, 0, 0, 0xffffffff81234567),
    (0x6005d51b#32, 0x00000000f2345678, 0, 0, 0xfffffffff2345678),
    (0x68c5d533#32, 0x0123456789abcdef, 0x38, 0, 0xefcdab8967452301),
    (0x6b85d513#32, 0x0123456789abcdef, 0, 0, 0xefcdab8967452301),
    (0x68c5d53b#32, 0xffffffff12345678, 0x18, 0, 0x0000000078563412),
    (0x68c5d53b#32, 0xff, 0x38, 0, 0xffffffffff000000),
    (0x69f5d51b#32, 1, 0, 0, 0xffffffff80000000)] = true := by decide

/-- Examples of the rules of 42. -/
theorem test_step_rotate_rv64_b : gives .rv64 [
    (0x6885d51b#32, 0x1111111112345678, 0, 0, 0x0000000034127856),
    (0x28c5d533#32, 0x0000000100000000, 0x3f, 0, 0xffffffffffffffff),
    (0x2875d513#32, 0x0100000000000020, 0, 0, 0xff000000000000ff),
    (0x28c5d53b#32, 0xffffffff00000100, 7, 0, 0x000000000000ff00),
    (0x28c5d53b#32, 0x01000000, 0x27, 0, 0xffffffffff000000),
    (0x29f5d51b#32, 1, 0, 0, 0xffffffffffffffff),
    (0x2875d51b#32, 0x00010000, 0, 0, 0x0000000000ff0000)] = true := by decide

/-- Examples of the rules of 43. -/
theorem test_step_shuffle_rv32 : gives .rv32 [
    (0x08c59533#32, 0x12345678, 15, 0, 0x131c1f60),
    (0x08c5d533#32, 0x131c1f60, 15, 0, 0x12345678),
    (0x08f59513#32, 0x0000ffff, 0, 0, 0x55555555),
    (0x08f5d513#32, 0x55555555, 0, 0, 0x0000ffff),
    (0x28c5a533#32, 0x76543210, 0x01234567, 0, 0x01234567),
    (0x28c5c533#32, 0x44332211, 0x00010203, 0, 0x11223344),
    (0x28c5e533#32, 0xbbbbaaaa, 0x00000001, 0, 0xaaaabbbb)] = true := by decide

/-- Examples of the rules of 43. -/
theorem test_step_shuffle_rv64 : gives .rv64 [
    (0x08c59533#32, 0x0123456789abcdef, 31, 0, 0x40434c4f70737c7f),
    (0x08c5d533#32, 0x0123456789abcdef, 31, 0, 0x0505afaf11bb11bb),
    (0x09f59513#32, 0x00000000ffffffff, 0, 0, 0x5555555555555555),
    (0x0985d513#32, 0x0123456789abcdef, 0, 0, 0x014589cd2367abef),
    (0x08c5953b#32, 0xffffffff0000ffff, 15, 0, 0x0000000055555555),
    (0x08c5953b#32, 0x000000008000ffff, 0, 0, 0xffffffff8000ffff),
    (0x08c5d53b#32, 0xffffffffaaaaaaaa, 15, 0, 0xffffffffffff0000),
    (0x08c5d53b#32, 0x0000000055555555, 15, 0, 0x000000000000ffff),
    (0x28c5a533#32, 0xfedcba9876543210, 0x00000000ffff0808, 0, 0x00000000ffff0808),
    (0x28c5c533#32, 0x8877665544332211, 0x0708ff0000000707, 0, 0x8800001111118888),
    (0x28c5e533#32, 0xddddccccbbbbaaaa, 0x0004ffff00030003, 0, 0x00000000dddddddd),
    (0x28c58533#32, 0xbbbbbbbbaaaaaaaa, 0x0000000000000001, 0, 0xaaaaaaaabbbbbbbb),
    (0x28c58533#32, 0xbbbbbbbbaaaaaaaa, 0x0000000200000001, 0, 0x00000000bbbbbbbb)] = true := by decide

/-- Examples of the rules of 44. -/
theorem test_step_bit_field_rv32 : gives .rv32 [
    (0x48c5f533#32, 0xffffffff, 0x04080005, 0, 0xfffff5ff),
    (0x08c5e533#32, 0x12345678, 0x00ff00f0, 0, 0x00000347),
    (0x48c5e533#32, 0x00000347, 0x00ff00f0, 0, 0x00340070)] = true := by decide

/-- Examples of the rules of 44. -/
theorem test_step_bit_field_rv64 : gives .rv64 [
    (0x48c5f533#32, 0xffffffffffffffff, 0x8810000000000005, 0, 0xffffffffff05ffff),
    (0x48c5f53b#32, 0xffffffffffffffff, 0x1234567804080005, 0, 0xfffffffffffff5ff),
    (0x48c5f53b#32, 0x000000007fffffff, 0x00000000011f0001, 0, 0xffffffffffffffff),
    (0x08c5e533#32, 0x0123456789abcdef, 0xff000000000000f0, 0, 0x000000000000001e),
    (0x48c5e533#32, 0x000000000000001e, 0xff000000000000f0, 0, 0x01000000000000e0),
    (0x08c5e53b#32, 0xffffffff12345678, 0xffffffff00ff00f0, 0, 0x0000000000000347),
    (0x08c5e53b#32, 0xffffffffffffffff, 0x00000000ffffffff, 0, 0xffffffffffffffff),
    (0x48c5e53b#32, 0xffffffffffffffff, 0xffffffff80000001, 0, 0xffffffff80000001),
    (0x48c5e53b#32, 0x0000000000000347, 0x1111111100ff00f0, 0, 0x0000000000340070)] = true := by decide

/-- Examples of the rules of 45. -/
theorem test_step_clmul_rv32 : gives .rv32 [
    (0x0ac59533#32, 3, 3, 0, 0x00000005),
    (0x0ac5b533#32, 0x80000001, 2, 0, 0x00000001),
    (0x0ac5a533#32, 0x80000001, 2, 0, 0x00000002),
    (0x61059513#32, 0x00000001, 0, 0, 0x77073096),
    (0x61159513#32, 0x00000001, 0, 0, 0x191b3141),
    (0x61259513#32, 0x00000001, 0, 0, 0xb8bc6765),
    (0x61859513#32, 0x00000001, 0, 0, 0xf26b8303),
    (0x61959513#32, 0x00000001, 0, 0, 0x13a29877),
    (0x61a59513#32, 0x00000001, 0, 0, 0xdd45aab8)] = true := by decide

/-- Examples of the rules of 45. -/
theorem test_step_clmul_rv64_a : gives .rv64 [
    (0x0ac59533#32, 0x123456789abcdef0, 0xffffffffffffffff, 0, 0x0e13cdd789944a50),
    (0x0ac5b533#32, 0x8000000000000000, 0x8000000000000000, 0, 0x4000000000000000),
    (0x0ac5a533#32, 0x8000000000000000, 0x8000000000000000, 0, 0x8000000000000000),
    (0x61059513#32, 0x0000000100000001, 0, 0, 0x0000000076073096),
    (0x61159513#32, 0x0000000100000001, 0, 0, 0x00000000191a3141),
    (0x61259513#32, 0x0000000100000001, 0, 0, 0x00000000b8bc6764),
    (0x61359513#32, 0x0000000000000001, 0, 0, 0x00000000ccaa009e),
    (0x61359513#32, 0x0000000100000001, 0, 0, 0x00000000741667fb),
    (0x61859513#32, 0x0000000100000001, 0, 0, 0x00000000f36b8303),
    (0x61959513#32, 0x0000000100000001, 0, 0, 0x0000000013a39877),
    (0x61a59513#32, 0x0000000100000001, 0, 0, 0x00000000dd45aab9),
    (0x61b59513#32, 0x0000000000000001, 0, 0, 0x00000000493c7d27),
    (0x61b59513#32, 0x0000000100000001, 0, 0, 0x000000009479d79f),
    (0x60359513#32, 0x00000000000000ff, 0, 0, 0x0101010101010101)] = true := by decide

/-- Examples of the rules of 45. -/
theorem test_step_clmul_rv64_b : gives .rv64 [
    (0x60359513#32, 0x0123456789abcdef, 0, 0, 0x0f3355000f3355ff),
    (0x48c5b533#32, 0x0123456789abcdef, 0x0102040810204080, 0, 0x80c4a2e691d5b3f7),
    (0x48c5b533#32, 0x0102040810204080, 0x0123456789abcdef, 0, 0xefcdab8967452301),
    (0x08c5b533#32, 3, 0x0000000000000101, 0, 0x0000000000000001),
    (0x08c5b533#32, 0xffffffffffffffff, 0xffffffffffffffff, 0, 0xffffffffffffffff)] = true := by decide

/-- Examples of the rules of 46. -/
theorem test_step_ternary_rv32 : gives .rv32 [
    (0x6ec59533#32, 0x12345678, 0xffff0000, 0x9abcdef0, 0x1234def0),
    (0x6ec5d533#32, 0x12345678, 0, 0x9abcdef0, 0x9abcdef0),
    (0x6cc59533#32, 0x12345678, 8, 0x9abcdef0, 0x3456789a),
    (0x6cc5d533#32, 0x12345678, 8, 0x9abcdef0, 0xf0123456),
    (0x6c85d513#32, 0x12345678, 0, 0x9abcdef0, 0xf0123456)] = true := by decide

/-- Examples of the rules of 46. -/
theorem test_step_ternary_rv64 : gives .rv64 [
    (0x6ec59533#32, 0x1111111111111111, 0x00ff00ff00ff00ff, 0x2222222222222222, 0x2211221122112211),
    (0x6ec5d533#32, 0x1111111111111111, 0x0000000100000000, 0x2222222222222222, 0x1111111111111111),
    (0x6cc59533#32, 0x0123456789abcdef, 8, 0xfedcba9876543210, 0x23456789abcdeffe),
    (0x6cc5d533#32, 0x0123456789abcdef, 8, 0xfedcba9876543210, 0x100123456789abcd),
    (0x6ff5d513#32, 0x0123456789abcdef, 0, 0xfedcba9876543210, 0xfdb97530eca86420),
    (0x6cc5953b#32, 0xaaaaaaaa12345678, 8, 0xbbbbbbbb9abcdef0, 0x000000003456789a),
    (0x6cc5953b#32, 0xaaaaaaaa12345678, 32, 0xbbbbbbbb9abcdef0, 0xffffffff9abcdef0),
    (0x6cc5d53b#32, 0xaaaaaaaa12345678, 8, 0xbbbbbbbb9abcdef0, 0xfffffffff0123456),
    (0x6cc5d53b#32, 0xaaaaaaaa12345678, 32, 0xbbbbbbbb9abcdef0, 0xffffffff9abcdef0),
    (0x6c85d51b#32, 0xaaaaaaaa12345678, 0, 0xbbbbbbbb9abcdef0, 0xfffffffff0123456),
    (0x6df5d51b#32, 0xaaaaaaaa12345678, 0, 0xbbbbbbbb9abcdef0, 0x000000003579bde0)] = true := by decide

/-- Examples of the rules of 47. -/
theorem test_step_address_rv32 : gives .rv32 [
    (0x20c5a533#32, 0x80000001, 0x00000010, 0, 0x00000012),
    (0x20c5c533#32, 0x00000005, 0x00001000, 0, 0x00001014),
    (0x20c5e533#32, 0x00000005, 0x00001000, 0, 0x00001028)] = true := by decide

/-- Examples of the rules of 47. -/
theorem test_step_address_rv64 : gives .rv64 [
    (0x20c5a533#32, 0x0000000080000001, 0x10, 0, 0x0000000100000012),
    (0x20c5c533#32, 0xe000000000000001, 0x10, 0, 0x8000000000000014),
    (0x20c5e533#32, 0xe000000000000001, 0x10, 0, 0x0000000000000018),
    (0x20c5a53b#32, 0xffffffff80000001, 0x10, 0, 0x0000000100000012),
    (0x20c5a53b#32, 0xffffffffffffffff, 0xffffffffffffffff, 0, 0x00000001fffffffd),
    (0x20c5c53b#32, 0xffffffff80000001, 0x10, 0, 0x0000000200000014),
    (0x20c5c53b#32, 0xffffffffffffffff, 0xffffffffffffffff, 0, 0x00000003fffffffb),
    (0x20c5e53b#32, 0xffffffff80000001, 0x10, 0, 0x0000000400000018),
    (0x20c5e53b#32, 0xffffffffffffffff, 0xffffffffffffffff, 0, 0x00000007fffffff7),
    (0x08c5853b#32, 0xffffffff80000001, 0x10, 0, 0x0000000080000011),
    (0x08c5853b#32, 0x00000001ffffffff, 1, 0, 0x0000000100000000),
    (0x0845951b#32, 0xffffffff80000001, 0, 0, 0x0000000800000010),
    (0x0a05951b#32, 0xffffffff80000001, 0, 0, 0x8000000100000000)] = true := by decide

/-- Examples of the rules of 49. -/
theorem test_step_base_isa_rv32 : gives .rv32 [
    (0x00c5f533#32, 0x0000ff0f, 0x00000ff0, 0, 0x00000f00),
    (0x00c5e533#32, 0x0000ff0f, 0x00000ff0, 0, 0x0000ffff),
    (0x00c5c533#32, 0x0000ff0f, 0x00000ff0, 0, 0x0000f0ff),
    (0x00c59533#32, 0x80000001, 0x24, 0, 0x10),
    (0x00c5d533#32, 0x80000001, 4, 0, 0x08000000),
    (0x40c5d533#32, 0x80000001, 4, 0, 0xf8000000),
    (0x00459513#32, 0x80000001, 0, 0, 0x10),
    (0x0045d513#32, 0x80000001, 0, 0, 0x08000000),
    (0x4045d513#32, 0x80000001, 0, 0, 0xf8000000)] = true := by decide

/-- Examples of the rules of 49. -/
theorem test_step_base_isa_rv64 : gives .rv64 [
    (0x00c59533#32, 0x80000001, 0x24, 0, 0x0000001000000000),
    (0x00459513#32, 0x80000001, 0, 0, 0x0000000800000010),
    (0x43f5d513#32, 0x8000000000000000, 0, 0, 0xffffffffffffffff)] = true := by decide

/-- Examples of the rules of 42, 48, 96. -/
theorem test_step_pseudo_word_rv32 : gives .rv32 [
    (0x0805c533#32, 0x1234f678, 0, 0, 0xf678),
    (0x6985d513#32, 0x12345678, 0, 0, 0x78563412),
    (0x2875d513#32, 0x00100200, 0, 0, 0x00ffff00)] = true := by decide

/-- Examples of the rules of 42, 48, 96. -/
theorem test_step_pseudo_word_rv64 : gives .rv64 [
    (0x6b85d513#32, 0x0123456789abcdef, 0, 0, 0xefcdab8967452301),
    (0x0905d513#32, 0x0123456789abcdef, 0, 0, 0x012389ab4567cdef),
    (0x0985d513#32, 0x0123456789abcdef, 0, 0, 0x014589cd2367abef),
    (0x0805c53b#32, 0xfedcba987654f210, 0, 0, 0xf210)] = true := by decide

/-! ## Single steps of the companion instructions, and the stops -/

/-- A state with the word at its pc and 16 valid zero bytes from 0x2000 on; a1 = 0x2001, a2 = 0xfedcba9876543210. -/
def coded (x : Xlen) (w : InstrWord) : State :=
  { st x 0x2001 0xfedcba9876543210 7 with
    mem := (wordBytes w).mapIdx (fun k b => (0x1000 + k, b)) ++ (List.range 16).map fun k => (0x2000 + k, 0#8) }

/-- `sw a2, 2(a1)` stores little-endian at the odd address 0x2003 and marks its four bytes as written (20 R42, R43). -/
theorem test_step_sw :
    (match step (coded .rv64 0x00c5a123#32) with
      | .next t => ((List.range 6).map fun k => t.readByte (0x2002 + k), t.written, t.pc.toNat)
      | _ => ([], [], 0)) =
    ([some 0, some 0x10, some 0x32, some 0x54, some 0x76, some 0], [0x2003, 0x2004, 0x2005, 0x2006], 0x1004) := by decide

/-- `lb a0, 0(a1)` sign-extends the byte it loads (20 R45). -/
theorem test_step_lb :
    (match step { coded .rv64 0x00058503#32 with
        mem := (coded .rv64 0x00058503#32).mem.map fun c => if c.1 = 0x2001 then (c.1, 0x80#8) else c } with
      | .next t => (t.x 10).toNat
      | _ => 0) = 0xffffffffffffff80 := by decide

/-- `sd a2, 8(a1)` runs over the end of the valid set: the lowest invalid address is reported (60 R423). -/
theorem test_store_fault :
    step (coded .rv64 0x00c5b423#32) = .fault (.accessFault 0x1000 0x2010) := rfl

/-- `beq a1, a1, -4` at 0x1000 goes to 0xffc; `bne a1, a1, -4` falls through (49 R389). -/
theorem test_step_branches :
    (match step (coded .rv32 0xfeb58ee3#32), step (coded .rv32 0xfeb59ee3#32) with
      | .next t, .next u => (t.pc.toNat, u.pc.toNat)
      | _, _ => (0, 0)) = (0xffc, 0x1004) := by decide

/-- `sw a2, -2(a1)` with a1 = 0x1000, into the word being executed, is refused with the lowest address of the word (20 R50,
92 D14). -/
theorem test_store_into_text :
    step { st .rv64 0x1000 0 0 with
        mem := (0xffe, 0#8) :: (0xfff, 0#8) :: (coded .rv64 0xfec5af23#32).mem } =
      .refused (.storeIntoFetchedText 0x1000 0x1000) := rfl

/-- `fence rw, rw` and `fence.i` only advance the pc (20 R48). -/
theorem test_step_fences :
    (match step (coded .rv32 0x0330000f#32), step (coded .rv32 0x0000100f#32) with
      | .next t, .next u => (t.pc.toNat, u.pc.toNat, t.fetched)
      | _, _ => (0, 0, [])) = (0x1004, 0x1004, [0x1000, 0x1001, 0x1002, 0x1003]) := by decide

/-- `ret` clears bit 0 of x[1] (49 R390); the misaligned target 0x5554 + 2 faults at its fetch only (60 R422). -/
theorem test_step_ret :
    (match step (coded .rv64 0x00008067#32) with
      | .next t => t.pc.toNat
      | _ => 0) = 0x5554 := by decide

/-- Some results of the companion arithmetic on a1 = 0x80000000 and a2 = 3, RV32 (49 R385 to R391). -/
theorem test_step_arithmetic : gives .rv32 [
    (0x40c58533#32, 0x80000000, 3, 0, 0x7ffffffd),
    (0x00c5a533#32, 0x80000000, 3, 0, 1),
    (0x00c5b533#32, 0x80000000, 3, 0, 0),
    (0x02c58533#32, 0x80000000, 3, 0, 0x80000000),
    (0x02c59533#32, 0x80000000, 3, 0, 0xfffffffe),
    (0xfff58513#32, 0x80000000, 3, 0, 0x7fffffff),
    (0x0bcda537#32, 0, 0, 0, 0x0bcda000)] = true := by decide

/-- An RV64-only word on RV32, a removed word (ADDIWU) and a word of an absent sub-extension are illegal (60 R421). -/
theorem test_illegal_words :
    step (coded .rv32 0x6005951b#32) = .fault (.illegalInstruction 0x1000 0x6005951b#32) ∧
    step (coded .rv64 0x0005c51b#32) = .fault (.illegalInstruction 0x1000 0x0005c51b#32) ∧
    step { coded .rv64 0x60059513#32 with exts := .none } = .fault (.illegalInstruction 0x1000 0x60059513#32) :=
  ⟨rfl, rfl, rfl⟩

/-- Reset holds no program: its fetch faults; with a word placed, the word runs (log entry 5). -/
theorem test_reset_runs_placed_word :
    step .reset = .fault (.accessFault 0x1000 0x1000) ∧
    (match step (State.reset.withFetchWord 32 0x60059513) with
      | .next t => (t.x 10).toNat
      | _ => 0) = 64 := ⟨rfl, by decide⟩

/-- The assembler names `zext.b`, `zext.h`, `rev8`, `not`, `neg`, `roli`, and `bext` by BEXT_ASM (48 R342 to R357). -/
theorem test_assembler_names :
    (Pseudo.zextB 10 11).expand .rv32 .zbs = some (.base (.andi 10 11 255#12)) ∧
    (Pseudo.zextH 10 11).expand .rv64 .zbs = some (.table (.packw 10 11 0)) ∧
    (Pseudo.rev .u8 .whole 10 11).expand .rv32 .zbs = some (.table (.grevi 10 11 24#6)) ∧
    (Pseudo.not 10 11).expand .rv64 .zbs = some (.base (.xori 10 11 0xfff#12)) ∧
    (Pseudo.neg 10 11).expand .rv64 .zbs = some (.base (.sub 10 0 11)) ∧
    (Pseudo.roli 10 11 8).expand .rv32 .zbs = some (.table (.rori 10 11 24#6)) ∧
    (Pseudo.bext 10 11 12).expand .rv64 .zbe = some (.table (.bextZbe 10 11 12)) ∧
    (Pseudo.immediate .grevi 10 11 (-8)).expand .rv64 .zbs = some (.table (.grevi 10 11 56#6)) ∧
    (Pseudo.immediate .rori 10 11 (-1)).expand .rv32 .zbs = some (.table (.rori 10 11 31#6)) ∧
    (Pseudo.immediate .roriw 10 11 (-1)).expand .rv32 .zbs = none ∧
    (Pseudo.fsri 10 11 13 (-1)).expand .rv32 .zbs = some (.table (.fsri 10 11 13 63#6)) := by decide

/-! ## What the statements assume can be met: one theorem per statement with hypotheses -/

/-- A word that decodes to no instruction of the table. -/
theorem no_row {x : Xlen} {e : Exts} {w : InstrWord} {d : DecodeError} (h : decode x e w = .error d) :
    ∀ i, decode x e w ≠ .ok i := by
  intro i hi
  rw [h] at hi
  cases hi

theorem witness_StepKeepsInvariant :
    (coded .rv64 0x00c5a123#32).Inv ∧ ∃ t, step (coded .rv64 0x00c5a123#32) = .next t :=
  ⟨by unfold State.Inv; decide, _, rfl⟩

theorem witness_ExecFrame : ∃ t, exec (.clz 10 11) (st .rv32 1 2 3) = .next t := ⟨_, rfl⟩

theorem witness_EveryInstructionCompletes :
    (Instr.clzw 10 11).rv64Only = true ∧ (st .rv64 1 2 3).xlen = .rv64 := ⟨rfl, rfl⟩

theorem witness_Rv64OnlyStopsOnRv32 :
    (Instr.clzw 10 11).rv64Only = true ∧ (st .rv32 1 2 3).xlen = .rv32 := ⟨rfl, rfl⟩

theorem witness_ResultDependsOnSourcesOnly :
    (st .rv64 1 2 3).xlen = (st .rv64 1 2 4).xlen ∧
    (∀ r ∈ (Instr.andn 10 11 12).sources, ((st .rv64 1 2 3).x r).toNat = ((st .rv64 1 2 4).x r).toNat) ∧
    (∃ t, exec (.andn 10 11 12) (st .rv64 1 2 3) = .next t) ∧ ∃ t, exec (.andn 10 11 12) (st .rv64 1 2 4) = .next t :=
  ⟨rfl, by decide, ⟨_, rfl⟩, _, rfl⟩

theorem witness_StepRunsInstruction :
    let s := coded .rv64 0x60059513#32
    s.pc.toNat % 4 = 0 ∧ s.readByte s.pc.toNat = some 0x13#8 ∧ s.readByte (s.pc.toNat + 1) = some 0x95#8 ∧
    s.readByte (s.pc.toNat + 2) = some 0x05#8 ∧ s.readByte (s.pc.toNat + 3) = some 0x60#8 ∧
    (∀ k < 4, s.pc.toNat + k ∉ s.written) ∧
    decode s.xlen s.exts (0x60#8 ++ 0x05#8 ++ 0x95#8 ++ 0x13#8) = .ok (.clz 10 11) :=
  ⟨by decide, by decide, by decide, by decide, by decide, by decide, rfl⟩

theorem witness_StepOfOtherWords_companion :
    let s := coded .rv64 0x00c58533#32
    s.pc.toNat % 4 = 0 ∧ s.readByte s.pc.toNat = some 0x33#8 ∧ s.readByte (s.pc.toNat + 1) = some 0x85#8 ∧
    s.readByte (s.pc.toNat + 2) = some 0xc5#8 ∧ s.readByte (s.pc.toNat + 3) = some 0x00#8 ∧
    (∀ k < 4, s.pc.toNat + k ∉ s.written) ∧ (∀ i, decode s.xlen s.exts 0x00c58533#32 ≠ .ok i) ∧
    Companion.decode s.xlen 0x00c58533#32 = some (.add 10 11 12) :=
  ⟨by decide, by decide, by decide, by decide, by decide, by decide, no_row (d := .noRow) rfl, rfl⟩

theorem witness_StepOfOtherWords_illegal :
    let s := coded .rv64 0xffffffff#32
    s.pc.toNat % 4 = 0 ∧ s.readByte s.pc.toNat = some 0xff#8 ∧ s.readByte (s.pc.toNat + 1) = some 0xff#8 ∧
    s.readByte (s.pc.toNat + 2) = some 0xff#8 ∧ s.readByte (s.pc.toNat + 3) = some 0xff#8 ∧
    (∀ k < 4, s.pc.toNat + k ∉ s.written) ∧ (∀ i, decode s.xlen s.exts 0xffffffff#32 ≠ .ok i) ∧
    Companion.decode s.xlen 0xffffffff#32 = none :=
  ⟨by decide, by decide, by decide, by decide, by decide, by decide, no_row (d := .noRow) rfl, rfl⟩

theorem witness_FetchFaults_misaligned : ({ coded .rv64 0#32 with pc := 0x1002#64 }).pc.toNat % 4 ≠ 0 := by decide

theorem witness_FetchFaults_invalid :
    let s := { st .rv64 0 0 0 with mem := [(0x1000, 0#8), (0x1001, 0#8), (0x1002, 0#8)] }
    let u := st .rv64 0 0 0
    (s.pc.toNat % 4 = 0 ∧ s.readByte (s.pc.toNat + 3) = none ∧ ∀ j < 3, (s.readByte (s.pc.toNat + j)).isSome) ∧
    (u.pc.toNat % 4 = 0 ∧ u.readByte (u.pc.toNat + 0) = none ∧ ∀ j < 0, (u.readByte (u.pc.toNat + j)).isSome) := by
  decide

theorem witness_StoredTextIsRefused_fetch :
    let s := { coded .rv64 0#32 with written := [0x1003] }
    let u := { coded .rv64 0#32 with written := [0x1000] }
    (s.pc.toNat % 4 = 0 ∧ (∀ j < 4, (s.readByte (s.pc.toNat + j)).isSome) ∧ s.pc.toNat + 3 ∈ s.written ∧
      ∀ j < 3, s.pc.toNat + j ∉ s.written) ∧
    (u.pc.toNat % 4 = 0 ∧ (∀ j < 4, (u.readByte (u.pc.toNat + j)).isSome) ∧ u.pc.toNat + 0 ∈ u.written ∧
      ∀ j < 0, u.pc.toNat + j ∉ u.written) := by decide

/-- Fetched bytes at the first and at the last address of the access, for each size of store. -/
theorem witness_StoredTextIsRefused_store :
    let s := fun j => { coded .rv64 0#32 with fetched := [0x2004 + j] }
    (∀ j, (s j).xlen = .rv64) ∧ ∃ addr : Nat → Nat,
      (∀ j, addr = fun k => ((s j).x 11 + (3#12).signExtend _ + BitVec.ofNat _ k).toNat) ∧
      ∀ n ∈ [1, 2, 4, 8], ∀ j ∈ [0, n - 1], (∀ k < n, ((s j).readByte (addr k)).isSome) ∧ addr j ∈ (s j).fetched ∧
        ∀ k < n, addr k ∈ (s j).fetched → addr j ≤ addr k :=
  ⟨fun _ => rfl, fun k => ((coded .rv64 0#32).x 11 + (3#12).signExtend _ + BitVec.ofNat _ k).toNat, fun _ => rfl, by decide⟩

theorem witness_DecodeOfEncode : (Instr.fsri 31 31 31 63#6).WellFormed .rv32 .bAll := by
  unfold Instr.WellFormed; decide

theorem witness_EncodeOfDecode : decode .rv64 .bAll 0x60059513#32 = .ok (.clz 10 11) := rfl

theorem witness_CompanionDecodeOfEncode : (Companion.ld 1 2 0xfff#12).rv64Only = true ∧ Xlen.rv64 = .rv64 := ⟨rfl, rfl⟩

theorem witness_WordsIllegalOnRv32 :
    opcodeOf 0x0000003b#32 = op32 ∧ opcodeOf 0x0000001b#32 = opImm32 ∧
    ((Instr.crc32D 10 11).rv64Only = true ∧ 0x61359513#32 = encode .rv64 (.crc32D 10 11)) ∧
    (opcodeOf 0x02059513#32 = opImm ∧ funct3Of 0x02059513#32 = 0b001#3 ∧
      (0x02059513#32).getLsbD 26 = false ∧ (0x02059513#32).getLsbD 25 = true) ∧
    (opcodeOf 0x0905d513#32 = opImm ∧ funct7Of 0x0905d513#32 = 0b0000100#7 ∧ funct3Of 0x0905d513#32 = 0b101#3 ∧
      (0x0905d513#32).getLsbD 24 = true) ∧
    (opcodeOf 0x09059513#32 = opImm ∧ funct7Of 0x09059513#32 = 0b0000100#7 ∧ funct3Of 0x09059513#32 = 0b001#3 ∧
      (0x09059513#32).getLsbD 24 = true) ∧
    (opcodeOf 0x6a05d513#32 = opImm ∧ funct3Of 0x6a05d513#32 = 0b101#3 ∧
      (0x6a05d513#32).getLsbD 26 = false ∧ (0x6a05d513#32).getLsbD 25 = true) := by decide

theorem witness_ReservedEncodingsIllegal :
    (opcodeOf 0x20000033#32 = opOp ∧ funct7Of 0x20000033#32 = 0b0010000#7 ∧ funct3Of 0x20000033#32 = 0b000#3) ∧
    (opcodeOf 0x04001013#32 = opImm ∧ (0x04001013#32).getLsbD 26 = true ∧ funct3Of 0x04001013#32 = 0b001#3) ∧
    (opcodeOf 0x60601013#32 = opImm ∧ funct7Of 0x60601013#32 = 0b0110000#7 ∧ funct3Of 0x60601013#32 = 0b001#3 ∧
      imm5Of 0x60601013#32 ∉ [0#5, 1#5, 2#5, 3#5, 4#5, 5#5, 16#5, 17#5, 18#5, 19#5, 24#5, 25#5, 26#5, 27#5]) ∧
    (opcodeOf 0x6030101b#32 = opImm32 ∧ funct7Of 0x6030101b#32 = 0b0110000#7 ∧ funct3Of 0x6030101b#32 = 0b001#3 ∧
      imm5Of 0x6030101b#32 ∉ [0#5, 1#5, 2#5]) ∧
    (opcodeOf 0x62001013#32 = opImm ∧ funct7Of 0x62001013#32 = 0b0110001#7 ∧ funct3Of 0x62001013#32 = 0b001#3) ∧
    (opcodeOf 0x0600501b#32 = opImm32 ∧ f2Of 0x0600501b#32 = 0b11#2 ∧ funct3Of 0x0600501b#32 = 0b101#3) ∧
    (opcodeOf 0x4800501b#32 = opImm32 ∧ funct7Of 0x4800501b#32 = 0b0100100#7 ∧ funct3Of 0x4800501b#32 = 0b101#3) ∧
    (opcodeOf 0x0800501b#32 = opImm32 ∧ funct7Of 0x0800501b#32 = 0b0000100#7 ∧ funct3Of 0x0800501b#32 = 0b101#3) ∧
    (opcodeOf 0x0a005013#32 = opImm ∧ funct7Of 0x0a005013#32 = 0b0000101#7 ∧ funct3Of 0x0a005013#32 = 0b101#3) ∧
    (opcodeOf 0x06000033#32 = opOp ∧ (0x06000033#32).getLsbD 26 = true ∧ funct3Of 0x06000033#32 ≠ 0b001#3 ∧
      funct3Of 0x06000033#32 ≠ 0b101#3) ∧
    (opcodeOf 0x4800003b#32 = op32 ∧ funct7Of 0x4800003b#32 = 0b0100100#7 ∧ funct3Of 0x4800003b#32 = 0b000#3) ∧
    (opcodeOf 0x0000401b#32 = opImm32 ∧ funct3Of 0x0000401b#32 = 0b100#3) ∧
    (opcodeOf 0x0a00303b#32 = op32 ∧ funct7Of 0x0a00303b#32 = 0b0000101#7 ∧
      funct3Of 0x0a00303b#32 ∈ [0b000#3, 0b001#3, 0b010#3, 0b011#3]) ∧
    (opcodeOf 0x4a00003b#32 = op32 ∧ funct7Of 0x4a00003b#32 = 0b0100101#7 ∧ funct3Of 0x4a00003b#32 = 0b000#3) := by
  decide

theorem witness_PseudoWordsOfNarrowMachines :
    (∃ i, decode .rv32 { Exts.none with zbb := true } (encode .rv32 (.grevi 10 11 24#6)) = .ok i) ∧
    (∃ i, decode .rv64 { Exts.none with zbm := true, zbe := true } (encode .rv64 (.unshfli 10 11 24#5)) = .ok i) ∧
    { Exts.none with zbm := true, zbe := true }.zbp = false ∧ { Exts.none with zbb := true }.zbp = false ∧
    { Exts.none with zbb := true }.zbe = false ∧ { Exts.none with zbb := true }.zbf = false :=
  ⟨⟨_, rfl⟩, ⟨_, rfl⟩, rfl, rfl, rfl, rfl⟩

theorem witness_EmptyExtsHasBaseRowsOnly : decode .rv64 .none 0x00c5f533#32 = .ok (.and 10 11 12) := rfl

/-- The next statements have no hypothesis but the width that their word forms ask for, and names for numbers. -/
theorem witness_CountBits : (st .rv64 1 2 3).xlen = .rv64 := rfl

theorem witness_PackBits : (st .rv64 1 2 3).xlen = .rv64 := rfl

theorem witness_ShuffleWordBits : (st .rv64 1 2 3).xlen = .rv64 := rfl

theorem witness_BitExtract : (st .rv64 1 2 3).xlen = .rv64 := rfl

theorem witness_BitDeposit : (st .rv64 1 2 3).xlen = .rv64 := rfl

theorem witness_BitMatrix : (st .rv64 1 2 3).xlen = .rv64 := rfl

theorem witness_PseudoWordResults : (st .rv64 1 2 3).xlen = .rv64 ∧ 64 = (st .rv64 1 2 3).xlen.bits := ⟨rfl, rfl⟩

theorem witness_SingleBit :
    63 = ((st .rv64 0 127 0).x 12).toNat % (st .rv64 0 127 0).xlen.bits ∧ 63 = (63#6).toNat % (st .rv64 0 127 0).xlen.bits ∧
    0 = ((st .rv32 0 32 0).x 12).toNat % (st .rv32 0 32 0).xlen.bits := by decide

theorem witness_SingleBitWord : (st .rv64 0 63 0).xlen = .rv64 ∧ 31 = ((st .rv64 0 63 0).x 12).toNat % 32 := by decide

theorem witness_ShiftOnes :
    (st .rv64 0 63 0).xlen = .rv64 ∧ 63 = ((st .rv64 0 63 0).x 12).toNat % (st .rv64 0 63 0).xlen.bits ∧
    0 = (0#6).toNat % (st .rv64 0 63 0).xlen.bits ∧ 31 = ((st .rv64 0 63 0).x 12).toNat % 32 ∧ 31 = (31#5).toNat := by
  decide

theorem witness_Rotate :
    (st .rv64 0 63 0).xlen = .rv64 ∧ 64 = (st .rv64 0 63 0).xlen.bits ∧ 63 = ((st .rv64 0 63 0).x 12).toNat % 64 ∧
    0 = (0#6).toNat % 64 ∧ 31 = ((st .rv64 0 63 0).x 12).toNat % 32 ∧ 31 = (31#5).toNat := by decide

theorem witness_GeneralizedOrCombine :
    32 = (st .rv32 0 63 0).xlen.bits ∧ 31 = ((st .rv32 0 63 0).x 12).toNat % 32 ∧ 7 = (7#6).toNat % 32 := by decide

theorem witness_ReverseAndCombineWord :
    (st .rv64 0 63 0).xlen = .rv64 ∧ 31 = ((st .rv64 0 63 0).x 12).toNat % 32 ∧ 7 = (7#5).toNat := by decide

theorem witness_Crossbar :
    (Instr.xpermN 10 11 12, 4) ∈ [(Instr.xpermN 10 11 12, 4), (.xpermB 10 11 12, 8), (.xpermH 10 11 12, 16)] ∧
    (Instr.xpermW 10 11 12 = .xpermW 10 11 12 ∧ 32 = 32 ∧ (st .rv64 0 0 0).xlen = .rv64) := by decide

/-- The length field 0 stands for 16, and an offset of 31 is the last one. -/
theorem witness_BitFieldPlaceRv32 :
    let s := st .rv32 0 0x001f0000 0
    s.xlen = .rv32 ∧ 31 = (s.x 12).toNat / 2 ^ 16 % 32 ∧
    16 = (if (s.x 12).toNat / 2 ^ 24 % 16 = 0 then 16 else (s.x 12).toNat / 2 ^ 24 % 16) := by decide

/-- Both layouts: the upper one (bits 63:62 = 10) with offset 63 and length 0, which stands for 32, and the lower one. -/
theorem witness_BitFieldPlaceRv64 :
    (let s := st .rv64 0 0x803f000000000000 0
     s.xlen = .rv64 ∧ 0x803f =
       (if (s.x 12).toNat / 2 ^ 62 = 2 then (s.x 12).toNat / 2 ^ 48 else (s.x 12).toNat / 2 ^ 32) ∧
     63 = 0x803f % 64 ∧ 32 = (if 0x803f / 2 ^ 8 % 32 = 0 then 32 else 0x803f / 2 ^ 8 % 32)) ∧
    (let s := st .rv64 0 0x00000408010a0000 0
     0x408 = (if (s.x 12).toNat / 2 ^ 62 = 2 then (s.x 12).toNat / 2 ^ 48 else (s.x 12).toNat / 2 ^ 32) ∧
     8 = 0x408 % 64 ∧ 4 = (if 0x408 / 2 ^ 8 % 32 = 0 then 32 else 0x408 / 2 ^ 8 % 32) ∧
     10 = (s.x 12).toNat / 2 ^ 16 % 32 ∧
     1 = (if (s.x 12).toNat / 2 ^ 24 % 16 = 0 then 16 else (s.x 12).toNat / 2 ^ 24 % 16)) := by decide

theorem witness_CarrylessMultiply : ∃ p : Nat → Bool, 32 = (st .rv32 3 5 0).xlen.bits ∧
    p = fun k => xorBits 32 fun j => decide (j ≤ k) && (st .rv32 3 5 0).bit 12 j && (st .rv32 3 5 0).bit 11 (k - j) :=
  ⟨_, rfl, rfl⟩

theorem witness_CrcRounds : ∃ round roundC : BitVec 64 → BitVec 64, (st .rv64 1 0 0).xlen = .rv64 ∧
    (round = fun x => if x.getLsbD 0 then (x >>> 1) ^^^ BitVec.ofNat _ 0xEDB88320 else x >>> 1) ∧
    (roundC = fun x => if x.getLsbD 0 then (x >>> 1) ^^^ BitVec.ofNat _ 0x82F63B78 else x >>> 1) :=
  ⟨_, _, rfl, rfl, rfl⟩

theorem witness_CrcByBarrettReduction :
    let s := st .rv32 0x12345678 0xF7011641 0xEDB88320
    s.xlen = .rv32 ∧ (13 : Reg) ≠ 11 ∧ (s.x 12).toNat = 0xF7011641 ∧
    (s.x 13).toNat = 0xEDB88320 ∧ (∃ t, exec (.clmul 11 11 12) s = .next t ∧ ∃ u, exec (.clmulr 11 11 13) t = .next u) ∧
    ∃ w, exec (.crc32W 11 11) s = .next w :=
  ⟨rfl, by decide, by decide, by decide, ⟨_, rfl, _, rfl⟩, _, rfl⟩

theorem witness_FunnelShift : ∃ f g : Nat → Bool,
    let s := st .rv32 1 63 2
    32 = s.xlen.bits ∧ 63 = (s.x 12).toNat % (2 * 32) ∧
    (f = fun j => if j < 32 then s.bit 13 j else s.bit 11 (j - 32)) ∧
    (g = fun j => if j < 32 then s.bit 11 j else s.bit 13 (j - 32)) := ⟨_, _, rfl, rfl, rfl, rfl⟩

theorem witness_FunnelShiftWord : ∃ f g : Nat → Bool,
    let s := st .rv64 1 127 2
    s.xlen = .rv64 ∧ 63 = (s.x 12).toNat % 64 ∧
    (f = fun j => if j < 32 then s.bit 13 j else s.bit 11 (j - 32)) ∧
    (g = fun j => if j < 32 then s.bit 11 j else s.bit 13 (j - 32)) := ⟨_, _, rfl, rfl, rfl, rfl⟩

theorem witness_ShiftAndAdd :
    let s := st .rv64 0xffffffff80000000 5 0
    s.xlen = .rv64 ∧ 0xffffffff80000000 = (s.x 11).toNat ∧ 5 = (s.x 12).toNat ∧
    0x80000000 = 0xffffffff80000000 % 2 ^ 32 := by decide

theorem witness_BaseShifts :
    64 = (st .rv64 1 127 0).xlen.bits ∧ 63 = ((st .rv64 1 127 0).x 12).toNat % 64 ∧ 63 = (63#6).toNat % 64 := by decide

/-- The addresses of the next three theorems: a1 = 0x2001 with an offset of 3, where eight bytes are valid and unfetched. -/
theorem witness_CompanionStores :
    let s := coded .rv64 0#32
    let stores := [(Companion.sb 11 12 3#12, 1), (.sh 11 12 3#12, 2), (.sw 11 12 3#12, 4), (.sd 11 12 3#12, 8)]
    s.xlen = .rv64 ∧ ∃ addr : Nat → Nat, (addr = fun k => (s.x 11 + (3#12).signExtend _ + BitVec.ofNat _ k).toNat) ∧
      ∀ p ∈ stores, ∀ k < p.2, (s.readByte (addr k)).isSome ∧ addr k ∉ s.fetched := ⟨rfl, _, rfl, by decide⟩

theorem witness_CompanionLoads : ∃ (addr : Nat → Nat) (b : Nat → Byte),
    let s := coded .rv64 0#32
    s.xlen = .rv64 ∧ (addr = fun k => (s.x 11 + (3#12).signExtend _ + BitVec.ofNat _ k).toNat) ∧
    ∀ n ∈ [1, 2, 4, 8], ∀ k < n, s.readByte (addr k) = some (b k) :=
  ⟨_, fun _ => 0#8, rfl, rfl, by decide⟩

/-- With an offset of 15 the first address is the first invalid one, for an access of any size. -/
theorem witness_CompanionAccessFaults :
    let s := coded .rv64 0#32
    s.xlen = .rv64 ∧ ∃ addr : Nat → Nat, (addr = fun k => (s.x 11 + (15#12).signExtend _ + BitVec.ofNat _ k).toNat) ∧
      ∀ n ∈ [1, 2, 4, 8], 0 < n ∧ s.readByte (addr 0) = none ∧ ∀ k < n, s.readByte (addr k) = none → addr 0 ≤ addr k :=
  ⟨rfl, _, rfl, by decide⟩

theorem witness_CompanionBranches :
    let s := st .rv64 0xffffffffffffffff 1 0
    (Companion.blt 11 12 0x800#12, decide ((s.x 11).toInt < (s.x 12).toInt)) ∈
      [(Companion.beq 11 12 0x800#12, decide ((s.x 11).toNat = (s.x 12).toNat)),
      (.bne 11 12 0x800#12, decide ((s.x 11).toNat ≠ (s.x 12).toNat)),
      (.blt 11 12 0x800#12, decide ((s.x 11).toInt < (s.x 12).toInt)),
      (.bge 11 12 0x800#12, decide ((s.x 11).toInt ≥ (s.x 12).toInt)),
      (.bltu 11 12 0x800#12, decide ((s.x 11).toNat < (s.x 12).toNat))] := by decide

theorem witness_CompanionWordForms :
    (st .rv64 0 63 0).xlen = .rv64 ∧ 31 = ((st .rv64 0 63 0).x 12).toNat % 32 := by decide

/-- The immediate -1 at both widths. -/
theorem witness_AssemblerControlWords :
    (64 = Xlen.rv64.bits ∧ 63 = ((-1 : Int) % (64 : Int)).toNat ∧ 31 = ((-1 : Int) % ((64 / 2 : Nat) : Int)).toNat ∧
      31 = ((-1 : Int) % 32).toNat ∧ 63 = ((-1 : Int) % 64).toNat ∧ (st .rv64 0 0 0).xlen = .rv64) ∧
    (32 = Xlen.rv32.bits ∧ 31 = ((-1 : Int) % (32 : Int)).toNat ∧ 15 = ((-1 : Int) % ((32 / 2 : Nat) : Int)).toNat ∧
      (st .rv32 0 0 0).xlen = .rv32) := by decide

theorem witness_AssemblerRotateLeft : 31 < (st .rv32 0 0 0).xlen.bits ∧ 0 < (st .rv64 0 0 0).xlen.bits := by decide

end Sys2Proof.Tests
end

section
/-!
SUPPORT. How every instruction of the table ends, and what its result depends on: the one case split over the constructors
that the frame, the completion and the non-interference of `exec` are read off.
-/
namespace Sys2Proof.Machine

/-! ## The ending of an instruction -/

/-- The two endings `exec` has: a row of both widths retires its result, an RV64-only row does so behind its guard
(30_encoding.md R85). -/
def State.ending (s : State) (i : Instr) (v : s.XWord) : Result :=
  if i.rv64Only then s.onRv64 i (s.done i.dest v) else s.done i.dest v

/-- A next state is the retired one. -/
theorem State.ending_eq_next {s t : State} {i : Instr} {v : s.XWord} (h : s.ending i v = .next t) :
    t = s.retire i.dest v := by
  unfold State.ending at h
  split at h
  · exact State.done_eq_next.mp (State.onRv64_eq_next h).2
  · exact State.done_eq_next.mp h

/-- On a machine that has the row the ending is normal. -/
theorem State.ending_of_width {s : State} {i : Instr} (h : i.rv64Only = true → s.xlen = .rv64) (v : s.XWord) :
    s.ending i v = .next (s.retire i.dest v) := by
  unfold State.ending
  split
  next hi => exact State.onRv64_rv64 (h hi) i _
  next => rfl

/-! ## The result of an instruction -/

/-- Two states of one width whose source registers agree end every instruction with one result: the width and those
registers are all that a meaning reads (00_scope.md R12), so rewriting them in the first state's result gives the second's. -/
theorem exec_ending_of_sources_agree (i : Instr) {s s' : State} (hx : s.xlen = s'.xlen)
    (h : ∀ r ∈ i.sources, (s.x r).toNat = (s'.x r).toNat) :
    ∃ (v : s.XWord) (v' : s'.XWord), v.toNat = v'.toNat ∧ exec i s = s.ending i v ∧ exec i s' = s'.ending i v' := by
  obtain ⟨x, e, regs, pc, mem, written, fetched⟩ := s
  obtain ⟨_, e', regs', pc', mem', written', fetched'⟩ := s'
  obtain rfl : x = _ := hx
  replace h : ∀ r ∈ i.sources, _ = _ := fun r hr => BitVec.eq_of_toNat_eq (h r hr)
  cases i
  case zextH rd rs1 =>
    -- The meaning itself distinguishes the widths: pack on RV32, packw on RV64 (R341).
    have hrs1 := h rs1 (List.mem_singleton_self rs1)
    cases x <;> exact ⟨_, _, rfl, rfl, by simp only [State.xw, State.x_zero, hrs1]; rfl⟩
  all_goals
    simp only [Instr.sources, List.forall_mem_cons, List.not_mem_nil, false_implies, implies_true, and_true] at h
    exact ⟨_, _, rfl, rfl, by simp only [State.xw, h]; rfl⟩

/-- Every instruction has one of the two endings. -/
theorem exec_eq_ending (i : Instr) (s : State) : ∃ v : s.XWord, exec i s = s.ending i v := by
  obtain ⟨v, -, -, hv, -⟩ := exec_ending_of_sources_agree i (rfl : s.xlen = s.xlen) fun _ _ => rfl
  exact ⟨v, hv⟩

/-- A next state is the one an instruction retires in, with some result in rd. -/
theorem exec_next_eq_retire {i : Instr} {s t : State} (h : exec i s = .next t) :
    ∃ v : s.XWord, t = s.retire i.dest v := by
  obtain ⟨v, hv⟩ := exec_eq_ending i s
  exact ⟨v, State.ending_eq_next (hv.symm.trans h)⟩

end Sys2Proof.Machine
end

section
/-!
The statements of 00_scope.md about one instruction: its frame, that it ends, and what its result depends on.
-/
namespace Sys2Proof.Machine

/-- Retiring moves the pc by 4 modulo 2^XLEN (10_state.md R26). -/
theorem State.retire_pc_toNat (s : State) (rd : Reg) (v : s.XWord) :
    (s.retire rd v).pc.toNat = (s.pc.toNat + 4) % 2 ^ s.xlen.bits := by
  change (s.pc + 4#_).toNat = _
  rw [BitVec.toNat_add, BitVec.toNat_ofNat, Nat.add_mod_mod]

/-- Register 0 keeps its value when an instruction retires, whatever its destination. -/
theorem State.retire_x_zero (s : State) (rd : Reg) (v : s.XWord) : (s.retire rd v).x 0 = s.x 0 := rfl

/-- Settles O5: a next state is a retired one, and `retire` has this frame. -/
theorem execFrame : Obligations.ExecFrame := by
  intro i s t h
  obtain ⟨v, rfl⟩ := exec_next_eq_retire h
  refine ⟨s.retire_pc_toNat _ v, ?_, fun _ => rfl, rfl, rfl, rfl, rfl⟩
  rintro r (hr | rfl)
  · exact congrArg BitVec.toNat (s.retire_x_other _ v r hr)
  · exact congrArg BitVec.toNat (s.retire_x_zero _ v)

/-- Settles O6: both endings are normal on a machine that has the row. -/
theorem everyInstructionCompletes : Obligations.EveryInstructionCompletes := by
  intro i s h
  obtain ⟨v, hv⟩ := exec_eq_ending i s
  exact ⟨v, hv.trans (State.ending_of_width h v)⟩

/-- Settles O8: the two states end with one result, which rd reads as in both, unless it is register 0 and reads as 0. -/
theorem resultDependsOnSourcesOnly : Obligations.ResultDependsOnSourcesOnly := by
  intro i s s' t t' hx hsrc ht ht'
  obtain ⟨v, v', hvv', hv, hv'⟩ := exec_ending_of_sources_agree i hx hsrc
  obtain rfl := State.ending_eq_next (hv.symm.trans ht)
  obtain rfl := State.ending_eq_next (hv'.symm.trans ht')
  by_cases hd : i.dest = 0
  · rw [hd]
    simp
  · rw [s.retire_x_self _ v hd, s'.retire_x_self _ v' hd]
    exact hvv'

end Sys2Proof.Machine
end

section
/-!
SUPPORT. What running one word can do to the state, said once for the table and the companion instructions: retire a
result, jump, or store to valid addresses that no instruction has been fetched from. What every step keeps is read off it.
-/
namespace Sys2Proof.Machine

/-! ## The effect of a word -/

/-- The states that running one word can lead to from `s`. -/
inductive State.Effect (s : State) : State → Prop
  | retire (rd : Reg) (v : s.XWord) : s.Effect (s.retire rd v)
  | jump (target : s.XWord) : s.Effect (s.jump target)
  | store (addrs : List Nat) (bs : List Byte) (target : s.XWord)
      (inRange : ∀ a ∈ addrs, a < 2 ^ s.xlen.bits) (valid : ∀ a ∈ addrs, (s.readByte a).isSome)
      (unfetched : ∀ a ∈ addrs, a ∉ s.fetched) : s.Effect ((s.storeBytes addrs bs).jump target)

/-- An instruction that ends normally retires. -/
theorem State.effect_of_done {s t : State} {rd : Reg} {v : s.XWord} (h : s.done rd v = .next t) : s.Effect t := by
  obtain rfl := State.done_eq_next.mp h
  exact .retire rd v

/-- A load that gives a next state retires the value loaded. -/
theorem State.effect_of_load {s t : State} {rd rs1 : Reg} {imm : BitVec 12} {n : Nat} {f : Nat → s.XWord}
    (h : s.load rd rs1 imm n f = .next t) : s.Effect t := by
  unfold State.load at h
  split at h
  next => cases h
  next => exact State.effect_of_done h

/-- A store that gives a next state stored to valid addresses of the machine that have not been fetched. -/
theorem State.effect_of_store {s t : State} {rs1 rs2 : Reg} {imm : BitVec 12} {n : Nat}
    (h : s.store rs1 rs2 imm n = .next t) : s.Effect t := by
  obtain ⟨hvalid, hunfetched, rfl⟩ := State.of_store_next h
  exact .store _ _ _ (fun _ => s.span_lt _ n) hvalid hunfetched

/-- A control transfer jumps. -/
theorem State.effect_of_jump {s t : State} {target : s.XWord} (h : .next (s.jump target) = (.next t : Result)) :
    s.Effect t := by
  cases h
  exact .jump target

/-- An instruction of the table that gives a next state retires. -/
theorem effect_of_exec {i : Instr} {s t : State} (h : exec i s = .next t) : s.Effect t := by
  obtain ⟨v, rfl⟩ := exec_next_eq_retire h
  exact .retire i.dest v

/-- A companion instruction that gives a next state has one of the three effects: the loads, the stores, the control
transfers and fences, and the arithmetic. -/
theorem Companion.effect_of_exec {c : Companion} {s t : State} (h : c.exec s = .next t) : s.Effect t := by
  cases c <;> dsimp only [Companion.exec] at h
  case lb | lh | lw | ld | lbu | lhu | lwu => exact State.effect_of_load h
  case sb | sh | sw | sd => exact State.effect_of_store h
  case beq | bne | blt | bge | bltu | ret | fence | fenceI => exact State.effect_of_jump h
  all_goals exact State.effect_of_done h

/-- A word that gives a next state has one of the three effects. -/
theorem effect_of_runWord {s t : State} {w : InstrWord} (h : runWord s w = .next t) : s.Effect t := by
  unfold runWord at h
  split at h
  next => exact effect_of_exec h
  next =>
    split at h
    next => exact Companion.effect_of_exec h
    next => cases h

/-! ## What every effect keeps -/

theorem State.Effect.xlen_eq {s t : State} (h : s.Effect t) : t.xlen = s.xlen := by cases h <;> rfl

theorem State.Effect.exts_eq {s t : State} (h : s.Effect t) : t.exts = s.exts := by cases h <;> rfl

/-- Only the fetch adds to the ledger of fetched addresses. -/
theorem State.Effect.fetched_eq {s t : State} (h : s.Effect t) : t.fetched = s.fetched := by cases h <;> rfl

/-- A fetched byte keeps its value: only a store changes memory, and none writes where an instruction was fetched. -/
theorem State.Effect.readByte_of_fetched {s t : State} (h : s.Effect t) {a : Nat} (ha : a ∈ s.fetched) :
    t.readByte a = s.readByte a := by
  cases h with
  | retire | jump => rfl
  | store addrs bs _ _ _ unfetched =>
    exact Memory.read_writeAll_other s.mem addrs bs fun hmem => unfetched a hmem ha

theorem State.Effect.inv {s t : State} (h : s.Effect t) (hs : s.Inv) : t.Inv := by
  cases h with
  | retire rd v => exact State.inv_retire hs rd v
  | jump target => exact State.inv_jump hs target
  | store addrs bs target inRange valid unfetched =>
    exact State.inv_jump (State.inv_storeBytes hs addrs bs inRange valid unfetched) target

/-! ## A step -/

/-- A step that gives a next state fetched from valid addresses that no store has written, and had one of the three
effects on the state in which they count as fetched. -/
theorem of_step_next {s t : State} (h : step s = .next t) :
    (∀ a ∈ s.span s.pc 4, (s.readByte a).isSome) ∧ (∀ a ∈ s.span s.pc 4, a ∉ s.written) ∧ s.noteFetch.Effect t := by
  unfold step at h
  split at h
  next => cases h
  next => cases h
  next w hw =>
    obtain ⟨hvalid, hunwritten⟩ := State.of_fetch_word hw
    exact ⟨hvalid, hunwritten, effect_of_runWord h⟩

/-- Settles O3: counting the word as fetched keeps the invariant, and so does each of the three effects of the word. -/
theorem stepKeepsInvariant : Obligations.StepKeepsInvariant := by
  intro s t hs h
  obtain ⟨hvalid, hunwritten, heffect⟩ := of_step_next h
  refine ⟨heffect.inv (State.inv_noteFetch hs hvalid hunwritten), heffect.xlen_eq, heffect.exts_eq, ?_, ?_⟩
  · intro a ha
    rw [heffect.fetched_eq, State.noteFetch_fetched]
    exact mem_foldl_insertAddr.mpr (.inr ha)
  · intro a ha
    rw [heffect.fetched_eq] at ha
    exact heffect.readByte_of_fetched ha

end Sys2Proof.Machine
end

section
/-!
SUPPORT. A step at an aligned pc whose four bytes are valid and unwritten: the addresses it fetches from, the word it
assembles, and what it does with a word that is no row of the table.
-/
namespace Sys2Proof.Machine

/-! ## The word at an aligned pc (20_memory.md R44) -/

/-- A fetch from an aligned pc does not wrap: 2^XLEN is a multiple of 4. -/
theorem State.span_pc_of_aligned {s : State} (h : s.pc.toNat % 4 = 0) :
    s.span s.pc 4 = (List.range 4).map (s.pc.toNat + ·) := by
  refine List.map_congr_left fun k hk => ?_
  have hk4 : k < 4 := List.mem_range.mp hk
  have hpc : s.pc.toNat < 2 ^ s.xlen.bits := s.pc.isLt
  have hmultiple : 2 ^ s.xlen.bits % 4 = 0 := by cases s.xlen <;> rfl
  rw [BitVec.toNat_add, BitVec.toNat_ofNat, Nat.add_mod_mod]
  exact Nat.mod_eq_of_lt (by omega)

/-- The addresses of a fetch from an aligned pc. -/
theorem State.mem_span_pc {s : State} (h : s.pc.toNat % 4 = 0) {a : Nat} :
    a ∈ s.span s.pc 4 ↔ ∃ k < 4, a = s.pc.toNat + k := by
  simp only [State.span_pc_of_aligned h, List.mem_map, List.mem_range, eq_comm]

/-- The word of four bytes has the byte of the highest address on top (20_memory.md R42). -/
theorem wordOfBytes_eq_append (b0 b1 b2 b3 : Byte) : wordOfBytes [b0, b1, b2, b3] = b3 ++ b2 ++ b1 ++ b0 := by
  have happend : ∀ {n : Nat} (hi : BitVec n) (b : Byte), (hi ++ b).toNat = b.toNat + 256 * hi.toNat := by
    intro n hi b
    rw [BitVec.toNat_append, ← Nat.shiftLeft_add_eq_or_of_lt b.isLt, Nat.shiftLeft_eq]
    omega
  apply BitVec.eq_of_toNat_eq
  have := (b3 ++ b2 ++ b1 ++ b0).isLt
  simp only [happend] at this ⊢
  simp only [wordOfBytes, leValue, BitVec.toNat_ofNat]
  omega

/-- A fetch from four valid bytes that no store has written answers the word they make. -/
theorem State.fetch_of_bytes {s : State} {b0 b1 b2 b3 : Byte} (h : s.pc.toNat % 4 = 0)
    (h0 : s.readByte s.pc.toNat = some b0) (h1 : s.readByte (s.pc.toNat + 1) = some b1)
    (h2 : s.readByte (s.pc.toNat + 2) = some b2) (h3 : s.readByte (s.pc.toNat + 3) = some b3)
    (hw : ∀ k < 4, s.pc.toNat + k ∉ s.written) : s.fetch = .word (b3 ++ b2 ++ b1 ++ b0) := by
  have hspan : s.span s.pc 4 = [s.pc.toNat, s.pc.toNat + 1, s.pc.toNat + 2, s.pc.toNat + 3] :=
    State.span_pc_of_aligned h
  have hvalid : ∀ a ∈ s.span s.pc 4, (s.readByte a).isSome := by simp [hspan, h0, h1, h2, h3]
  have hunwritten : ∀ a ∈ s.span s.pc 4, a ∉ s.written := by
    intro a ha
    obtain ⟨k, hk, rfl⟩ := (State.mem_span_pc h).mp ha
    exact hw k hk
  rw [State.fetch_word h hvalid hunwritten, ← wordOfBytes_eq_append, hspan]
  simp [h0, h1, h2, h3]

/-! ## Words outside the table (10_state.md R30) -/

/-- Where the decoder answers no instruction it answers the reason. -/
theorem decode_eq_error_of_no_row {x : Xlen} {e : Exts} {w : InstrWord} (h : ∀ i, decode x e w ≠ .ok i) :
    ∃ d, decode x e w = .error d := by
  cases hd : decode x e w with
  | ok i => exact absurd hd (h i)
  | error d => exact ⟨d, rfl⟩

/-- Running a companion word is executing the companion instruction. -/
theorem runWord_of_companion {s : State} {w : InstrWord} {c : Companion} (h : ∀ i, decode s.xlen s.exts w ≠ .ok i)
    (hc : Companion.decode s.xlen w = some c) : runWord s w = c.exec s := by
  obtain ⟨d, hd⟩ := decode_eq_error_of_no_row h
  simp [runWord, hd, hc]

/-- Running any other word raises IllegalInstruction (60_exceptions.md R421). -/
theorem runWord_of_illegal {s : State} {w : InstrWord} (h : IllegalWord s.xlen s.exts w) :
    runWord s w = .fault (.illegalInstruction s.pc.toNat w) := by
  obtain ⟨hrow, hcompanion⟩ := h
  obtain ⟨d, hd⟩ := decode_eq_error_of_no_row hrow
  simp [runWord, hd, hcompanion, State.illegal, raiseFault]

end Sys2Proof.Machine
end

section
/-!
The statements of 10_state.md: the reset state, the frame of retiring, and what a step does with the word it fetches.
-/
namespace Sys2Proof.Machine

/-- Every register of the reset state reads as 0. -/
theorem State.reset_x (r : Reg) : State.reset.x r = 0#_ := by
  unfold State.x
  split
  next => rfl
  next => exact Vector.getElem_replicate _

/-- Settles O4: `retire_x` says what every register reads as, and no other field but the pc changes. -/
theorem retireFrame : Obligations.RetireFrame := by
  intro s rd v
  refine ⟨fun r => ?_, rfl, s.retire_pc_toNat rd v, fun _ => rfl, rfl, rfl, rfl, rfl⟩
  exact (congrArg BitVec.toNat (s.retire_x rd v r)).trans (apply_ite BitVec.toNat _ _ _)

/-- Settles O1: every field of the reset state is the value `Config` gives it. -/
theorem resetState : Obligations.ResetState :=
  ⟨rfl, rfl, rfl, fun r => congrArg BitVec.toNat (State.reset_x r), fun _ => rfl, rfl, rfl⟩

/-- Settles O2: the memory and both ledgers are empty, and slot 0 holds the reset value 0. -/
theorem resetMeetsInvariant : Obligations.ResetMeetsInvariant :=
  ⟨⟨.nil, List.forall_mem_nil _⟩, .nil, List.forall_mem_nil _, .nil, List.forall_mem_nil _,
    Vector.getElem_replicate _⟩

/-- Settles O9: the fetch answers the word of the four bytes, and the word decodes at the state it is run in. -/
theorem stepRunsInstruction : Obligations.StepRunsInstruction := by
  intro s b0 b1 b2 b3 i hpc h0 h1 h2 h3 hw hdecode
  refine ⟨?_, rfl, fun a => ?_⟩
  · rw [step_of_word (State.fetch_of_bytes hpc h0 h1 h2 h3 hw)]
    exact runWord_of_decode hdecode
  · rw [State.noteFetch_fetched, mem_foldl_insertAddr, State.mem_span_pc hpc, or_comm]

/-- Settles O10: the fetch answers the word, which the table does not have, so the companion instructions decide. -/
theorem stepOfOtherWords : Obligations.StepOfOtherWords := by
  rintro s b0 b1 b2 b3 _ rfl hpc h0 h1 h2 h3 hw hrow
  rw [step_of_word (State.fetch_of_bytes hpc h0 h1 h2 h3 hw)]
  exact ⟨fun c hc => runWord_of_companion hrow hc, fun hnone => runWord_of_illegal ⟨hrow, hnone⟩⟩

end Sys2Proof.Machine
end

section
/-!
SUPPORT. The companion loads and stores over the k-th address of an access (20_memory.md R42, R43): the addresses are
distinct, a store puts the k-th byte of its register there, and a load assembles its value from the k-th bytes.
-/
namespace Sys2Proof.Machine

/-! ## The addresses of an access -/

/-- An access goes through the addresses base, base + 1, ... in that order. -/
theorem State.span_eq_map {s : State} {base : s.XWord} {addr : Nat → Nat}
    (h : addr = fun k => (base + BitVec.ofNat _ k).toNat) (n : Nat) : s.span base n = (List.range n).map addr := by
  rw [h]
  rfl

/-- The addresses of an access, by their numbers. -/
theorem State.mem_span {s : State} {base : s.XWord} {addr : Nat → Nat}
    (h : addr = fun k => (base + BitVec.ofNat _ k).toNat) {n a : Nat} : a ∈ s.span base n ↔ ∃ k < n, a = addr k := by
  simp only [State.span_eq_map h, List.mem_map, List.mem_range, eq_comm]

/-- What holds at every address of an access, by the numbers of the addresses. -/
theorem State.forall_mem_span {s : State} {base : s.XWord} {addr : Nat → Nat}
    (h : addr = fun k => (base + BitVec.ofNat _ k).toNat) {n : Nat} {P : Nat → Prop} :
    (∀ a ∈ s.span base n, P a) ↔ ∀ k < n, P (addr k) := by
  simp only [State.span_eq_map h, List.forall_mem_map, List.mem_range]

/-- An access of at most 2^XLEN bytes does not come back to an address, even where it wraps. -/
theorem State.span_nodup (s : State) (base : s.XWord) {n : Nat} (hn : n ≤ 2 ^ s.xlen.bits) : (s.span base n).Nodup := by
  refine List.nodup_range.map_on fun j hj k hk hjk => ?_
  have hlt : ∀ {i}, i ∈ List.range n → i < 2 ^ s.xlen.bits := fun hi => (List.mem_range.mp hi).trans_le hn
  have heq : BitVec.ofNat s.xlen.bits j = BitVec.ofNat s.xlen.bits k :=
    BitVec.add_right_inj base |>.mp (BitVec.eq_of_toNat_eq hjk)
  have := congrArg BitVec.toNat heq
  rwa [BitVec.toNat_ofNat, BitVec.toNat_ofNat, Nat.mod_eq_of_lt (hlt hj), Nat.mod_eq_of_lt (hlt hk)] at this

/-! ## The bytes of a store -/

/-- The k-th byte of a number is the low byte of its quotient by 256^k (20_memory.md R42). -/
theorem leBytes_eq_map (n v : Nat) : leBytes n v = (List.range n).map fun k => BitVec.ofNat 8 (v / 256 ^ k) := by
  induction n generalizing v with
  | zero => rfl
  | succ n ih =>
    rw [leBytes, ih, List.range_succ_eq_map, List.map_cons, List.map_map, pow_zero, Nat.div_one]
    refine congrArg _ (List.map_congr_left fun k _ => ?_)
    rw [Function.comp_apply, Nat.div_div_eq_div_mul, Nat.pow_succ']

/-- A byte written to one of distinct addresses reads as written: no later byte of the write replaces it. -/
theorem Memory.read_writeAll_of_mem_zip (m : Memory) {l : List Nat} {bs : List Byte} (hl : l.Nodup) {a : Nat} {b : Byte}
    (h : (a, b) ∈ l.zip bs) : Memory.read (Memory.writeAll m l bs) a = some b := by
  induction l generalizing m bs with
  | nil => simp at h
  | cons c l ih =>
    cases bs with
    | nil => simp at h
    | cons d bs =>
      obtain ⟨hc, hl⟩ := List.nodup_cons.mp hl
      change Memory.read (Memory.writeAll (Memory.write m c d) l bs) a = some b
      rcases List.mem_cons.mp h with heq | hmem
      · obtain ⟨rfl, rfl⟩ := Prod.mk.inj heq
        rw [Memory.read_writeAll_other _ l bs hc, Memory.read_write_same]
      · exact ih _ hl hmem

/-- After a store of the bytes of a number the k-th address of the access reads as the k-th byte. -/
theorem State.readByte_storeBytes_leBytes {s : State} {base : s.XWord} {addr : Nat → Nat}
    (h : addr = fun k => (base + BitVec.ofNat _ k).toNat) {n : Nat} (hn : n ≤ 2 ^ s.xlen.bits) (v : Nat) {k : Nat}
    (hk : k < n) : (s.storeBytes (s.span base n) (leBytes n v)).readByte (addr k) =
      some (BitVec.ofNat 8 (v / 256 ^ k)) := by
  refine Memory.read_writeAll_of_mem_zip s.mem (s.span_nodup base hn) ?_
  rw [leBytes_eq_map, State.span_eq_map h, List.zip_map']
  exact List.mem_map.mpr ⟨k, List.mem_range.mpr hk, rfl⟩

/-- The four companion stores are stores of 1, 2, 4 and 8 bytes. -/
theorem Companion.exec_of_mem_stores {rs1 rs2 : Reg} {imm : BitVec 12} {c : Companion} {n : Nat}
    (h : (c, n) ∈ [(Companion.sb rs1 rs2 imm, 1), (.sh rs1 rs2 imm, 2), (.sw rs1 rs2 imm, 4), (.sd rs1 rs2 imm, 8)])
    (s : State) : c.exec s = s.store rs1 rs2 imm n ∧ n ≤ 8 := by
  simp only [List.mem_cons, Prod.mk.injEq, List.not_mem_nil, or_false] at h
  rcases h with ⟨rfl, rfl⟩ | ⟨rfl, rfl⟩ | ⟨rfl, rfl⟩ | ⟨rfl, rfl⟩ <;> exact ⟨rfl, by decide⟩

/-! ## The value of a load -/

/-- A byte appended below a word is the low byte of the whole. -/
theorem toNat_append_byte {m : Nat} (hi : BitVec m) (b : Byte) : (hi ++ b).toNat = b.toNat + 256 * hi.toNat := by
  rw [BitVec.toNat_append, ← Nat.shiftLeft_add_eq_or_of_lt b.isLt, Nat.shiftLeft_eq]
  omega

/-- The byte at the lowest address goes below the word that the bytes above it make (20_memory.md R42). -/
theorem leValue_cons_eq_append {m : Nat} {hi : BitVec m} {bs : List Byte} (h : leValue bs = hi.toNat) (b : Byte) :
    leValue (b :: bs) = (hi ++ b).toNat := by
  rw [leValue, h, toNat_append_byte]

theorem leValue_one (b0 : Byte) : leValue [b0] = b0.toNat := rfl

theorem leValue_two (b0 b1 : Byte) : leValue [b0, b1] = (b1 ++ b0).toNat :=
  leValue_cons_eq_append (leValue_one b1) b0

theorem leValue_four (b0 b1 b2 b3 : Byte) : leValue [b0, b1, b2, b3] = (b3 ++ b2 ++ b1 ++ b0).toNat :=
  leValue_cons_eq_append (leValue_cons_eq_append (leValue_two b2 b3) b1) b0

theorem leValue_eight (b0 b1 b2 b3 b4 b5 b6 b7 : Byte) : leValue [b0, b1, b2, b3, b4, b5, b6, b7] =
    (b7 ++ b6 ++ b5 ++ b4 ++ b3 ++ b2 ++ b1 ++ b0).toNat :=
  have upper := leValue_four b4 b5 b6 b7
  leValue_cons_eq_append (leValue_cons_eq_append (leValue_cons_eq_append (leValue_cons_eq_append upper b3) b2) b1) b0

section
variable {s : State} {rs1 : Reg} {imm : BitVec 12} {addr : Nat → Nat} {b : Nat → Byte} {n m : Nat} {v : BitVec m}

/-- A load from valid addresses retires with what it makes of the number its bytes hold. -/
theorem State.load_of_bytes (haddr : addr = fun k => (s.plusImm rs1 imm + BitVec.ofNat _ k).toNat)
    (hb : ∀ k < n, s.readByte (addr k) = some (b k)) (hv : leValue ((List.range n).map b) = v.toNat) (rd : Reg)
    (f : Nat → s.XWord) : s.load rd rs1 imm n f = .next (s.retire rd (f v.toNat)) := by
  have hvalid : ∀ a ∈ s.span (s.plusImm rs1 imm) n, (s.readByte a).isSome :=
    (State.forall_mem_span haddr).mpr fun k hk => Option.isSome_of_mem (hb k hk)
  have hbytes : (s.span (s.plusImm rs1 imm) n).filterMap s.readByte = (List.range n).map b := by
    rw [State.span_eq_map haddr, List.filterMap_map, ← List.filterMap_eq_map]
    exact List.filterMap_congr fun k hk => hb k (List.mem_range.mp hk)
  rw [State.load_ok rd rs1 imm n f hvalid, hbytes, hv]

/-- A sign-extending load (49_base_isa_companion.md R388). -/
theorem State.load_signed (haddr : addr = fun k => (s.plusImm rs1 imm + BitVec.ofNat _ k).toNat)
    (hb : ∀ k < n, s.readByte (addr k) = some (b k)) (hv : leValue ((List.range n).map b) = v.toNat) (rd : Reg) :
    s.load rd rs1 imm n (fun u => (BitVec.ofNat m u).signExtend _) = .next (s.retire rd (v.signExtend _)) := by
  rw [State.load_of_bytes haddr hb hv, BitVec.ofNat_toNat, BitVec.setWidth_eq]

/-- A zero-extending load (49_base_isa_companion.md R388). -/
theorem State.load_unsigned (haddr : addr = fun k => (s.plusImm rs1 imm + BitVec.ofNat _ k).toNat)
    (hb : ∀ k < n, s.readByte (addr k) = some (b k)) (hv : leValue ((List.range n).map b) = v.toNat) (rd : Reg) :
    s.load rd rs1 imm n (fun u => BitVec.ofNat _ u) = .next (s.retire rd (v.setWidth _)) := by
  rw [State.load_of_bytes haddr hb hv, BitVec.ofNat_toNat]

end

end Sys2Proof.Machine
end

section
/-!
The statements of 20_memory.md: the refusals that keep program text immutable, and what the companion loads and stores do.
-/
namespace Sys2Proof.Machine

/-- A step at a state whose fetch is refused is refused for the same reason. -/
theorem step_of_refused {s : State} {r : Refusal} (h : s.fetch = .refused r) : step s = .refused r := by
  simp [step, h]

/-- Moving the pc past an instruction adds 4 modulo 2^XLEN (10_state.md R26). -/
theorem State.pc_add_four_toNat (s : State) : (s.pc + 4#_).toNat = (s.pc.toNat + 4) % 2 ^ s.xlen.bits :=
  s.retire_pc_toNat 0 0#_

/-- Settles O12: each refusal comes from a lookup that finds the lowest address of the access in a ledger. For the fetch
that is the first one written, since the addresses of an aligned word rise. -/
theorem storedTextIsRefused : Obligations.StoredTextIsRefused := by
  constructor
  · intro s k hpc hk hvalid hwritten hfirst
    refine step_of_refused (State.fetch_stored hpc ?valid (lowestIn_eq_some.mpr ⟨⟨?inSpan, hwritten⟩, ?lowest⟩))
    case valid =>
      intro a ha
      obtain ⟨j, hj, rfl⟩ := (State.mem_span_pc hpc).mp ha
      exact hvalid j hj
    case inSpan => exact (State.mem_span_pc hpc).mpr ⟨k, hk, rfl⟩
    case lowest =>
      intro a ha hmem
      obtain ⟨j, -, rfl⟩ := (State.mem_span_pc hpc).mp ha
      exact Nat.add_le_add_left (Nat.le_of_not_lt fun hjk => hfirst j hjk hmem) _
  · intro s rs1 rs2 imm c n j addr hc _ haddr hvalid hj hfetched hlowest
    obtain ⟨hexec, -⟩ := Companion.exec_of_mem_stores hc s
    have hlookup : lowestIn s.fetched (s.span (s.plusImm rs1 imm) n) = some (addr j) :=
      lowestIn_eq_some.mpr
        ⟨⟨(State.mem_span haddr).mpr ⟨j, hj, rfl⟩, hfetched⟩, (State.forall_mem_span haddr).mpr hlowest⟩
    exact hexec.trans (State.store_refused rs1 rs2 imm n ((State.forall_mem_span haddr).mpr hvalid) hlookup)

/-- Settles O52: the store goes through, and its addresses are distinct, so each keeps the byte written there. -/
theorem companionStores : Obligations.CompanionStores := by
  intro s rs1 rs2 imm c n addr hc _ haddr hok
  obtain ⟨hexec, hn⟩ := Companion.exec_of_mem_stores hc s
  have hstore := State.store_ok rs1 rs2 imm n ((State.forall_mem_span haddr).mpr fun k hk => (hok k hk).1)
    ((State.forall_mem_span haddr).mpr fun k hk => (hok k hk).2)
  refine ⟨_, hexec.trans hstore, ?bytes, ?others, ?ledger, rfl, fun _ => rfl, s.pc_add_four_toNat, rfl, rfl⟩
  case bytes =>
    have hspace : n ≤ 2 ^ s.xlen.bits := hn.trans (by cases s.xlen <;> decide)
    exact fun k hk => State.readByte_storeBytes_leBytes haddr hspace _ hk
  case others =>
    intro a ha
    refine Memory.read_writeAll_other s.mem _ _ fun hmem => ?_
    obtain ⟨k, hk, hak⟩ := (State.mem_span haddr).mp hmem
    exact ha k hk hak
  case ledger =>
    exact fun a => mem_foldl_insertAddr.trans (or_comm.trans (or_congr_right (State.mem_span haddr)))

/-- Settles O53: each load is the sign- or zero-extending load of the word its bytes make. -/
theorem companionLoads : Obligations.CompanionLoads := by
  intro s rd rs1 imm addr b n haddr hb
  refine ⟨?byte, ?half, ?word, ?double⟩
  case byte =>
    rintro rfl
    exact ⟨State.load_signed haddr hb (leValue_one _) rd, State.load_unsigned haddr hb (leValue_one _) rd⟩
  case half =>
    rintro rfl
    exact ⟨State.load_signed haddr hb (leValue_two _ _) rd, State.load_unsigned haddr hb (leValue_two _ _) rd⟩
  case word =>
    rintro rfl
    have hvalue := leValue_four (b 0) (b 1) (b 2) (b 3)
    exact ⟨State.load_signed haddr hb hvalue rd, fun _ => State.load_unsigned haddr hb hvalue rd⟩
  case double =>
    rintro rfl _
    exact State.load_unsigned haddr hb (leValue_eight _ _ _ _ _ _ _ _) rd

end Sys2Proof.Machine
end

section
/-!
SUPPORT. The fields of an instruction word (30_encoding.md R61, R62): what each is in a word put together from its fields,
and that the fields of a word are the whole word.
-/
namespace Sys2Proof

/-! ## Fields as bits -/

/-- A field of a field is a field. -/
theorem extractLsb'_extractLsb' {n : Nat} (v : BitVec n) (lo len start len' : Nat) (h : start + len' ≤ len) :
    (v.extractLsb' lo len).extractLsb' start len' = v.extractLsb' (lo + start) len' := by
  ext i hi
  simp only [BitVec.getElem_extractLsb', BitVec.getLsbD_extractLsb', Nat.add_assoc]
  simp only [show start + i < len by omega, decide_true, Bool.true_and]

/-- A field that holds the bits of a register number reads as that register. -/
theorem regField_of_extract {w : InstrWord} {lo : Nat} {r : Reg} (h : w.extractLsb' lo 5 = regBits r) :
    regField w lo = r := by
  apply Fin.ext
  change (w.extractLsb' lo 5).toNat = r.val
  rw [h, regBits, BitVec.toNat_ofNat, Nat.mod_eq_of_lt r.isLt]

/-- The bits of the register a field names are the field. -/
theorem regBits_regField (w : InstrWord) (lo : Nat) : regBits (regField w lo) = w.extractLsb' lo 5 :=
  (BitVec.ofNat_toNat 5 _).trans (BitVec.setWidth_eq _)

/-! ## The fields of a word put together -/

section
variable (top : BitVec 12) (rs1 : Reg) (f3 : BitVec 3) (rd : Reg) (op : BitVec 7)

@[simp] theorem rdOf_wordOf : rdOf (wordOf top rs1 f3 rd op) = rd := by
  apply regField_of_extract
  rw [wordOf, BitVec.extractLsb'_append_eq_of_le (by decide)]
  exact BitVec.extractLsb'_append_eq_right

@[simp] theorem funct3Of_wordOf : funct3Of (wordOf top rs1 f3 rd op) = f3 := by
  rw [funct3Of, wordOf, BitVec.extractLsb'_append_eq_of_le (by decide),
    BitVec.extractLsb'_append_eq_of_le (by decide)]
  exact BitVec.extractLsb'_append_eq_right

@[simp] theorem rs1Of_wordOf : rs1Of (wordOf top rs1 f3 rd op) = rs1 := by
  apply regField_of_extract
  rw [wordOf, BitVec.extractLsb'_append_eq_of_le (by decide), BitVec.extractLsb'_append_eq_of_le (by decide),
    BitVec.extractLsb'_append_eq_of_le (by decide)]
  exact BitVec.extractLsb'_append_eq_right

@[simp] theorem funct12Of_wordOf : funct12Of (wordOf top rs1 f3 rd op) = top := by
  rw [funct12Of, wordOf, BitVec.extractLsb'_append_eq_of_le (by decide),
    BitVec.extractLsb'_append_eq_of_le (by decide), BitVec.extractLsb'_append_eq_of_le (by decide),
    BitVec.extractLsb'_append_eq_of_le (by decide)]
  exact BitVec.extractLsb'_eq_self

end

/-! ## The fields inside the I-type field -/

theorem funct7Of_append_imm5Of (w : InstrWord) : funct7Of w ++ imm5Of w = funct12Of w :=
  BitVec.extractLsb'_append_extractLsb'_eq_extractLsb' rfl

theorem funct6Of_append_imm6Of (w : InstrWord) : funct6Of w ++ imm6Of w = funct12Of w :=
  BitVec.extractLsb'_append_extractLsb'_eq_extractLsb' rfl

theorem regBits_rs2Of (w : InstrWord) : regBits (rs2Of w) = imm5Of w := regBits_regField w 20

theorem regBits_rs3Of_append_f2Of (w : InstrWord) : regBits (rs3Of w) ++ f2Of w = funct7Of w := by
  rw [rs3Of, regBits_regField]
  exact BitVec.extractLsb'_append_extractLsb'_eq_extractLsb' rfl

theorem funct7Of_eq (w : InstrWord) : funct7Of w = (funct12Of w).extractLsb' 5 7 :=
  (extractLsb'_extractLsb' w 20 12 5 7 (by decide)).symm

theorem imm5Of_eq (w : InstrWord) : imm5Of w = (funct12Of w).extractLsb' 0 5 :=
  (extractLsb'_extractLsb' w 20 12 0 5 (by decide)).symm

theorem funct6Of_eq (w : InstrWord) : funct6Of w = (funct7Of w).extractLsb' 1 6 :=
  (extractLsb'_extractLsb' w 25 7 1 6 (by decide)).symm

theorem f2Of_eq (w : InstrWord) : f2Of w = (funct7Of w).extractLsb' 0 2 :=
  (extractLsb'_extractLsb' w 25 7 0 2 (by decide)).symm

/-- The bit that marks a ternary instruction is bit 1 of funct7. -/
theorem ternaryBit_eq (w : InstrWord) : ternaryBit w = (funct7Of w)[1] := by
  simp [ternaryBit, funct7Of]

/-- The bit that marks a ternary instruction is bit 1 of f2. -/
theorem ternaryBit_eq_f2Of (w : InstrWord) : ternaryBit w = (f2Of w)[1] := by
  simp [ternaryBit, f2Of]

/-- The bit that marks a ternary instruction is the lowest function bit above a six-bit immediate. -/
theorem ternaryBit_eq_funct6Of (w : InstrWord) : ternaryBit w = (funct6Of w)[0] := by
  simp [ternaryBit, funct6Of]

/-! ## The fields of the formats -/

section
variable (rs1 : Reg) (f3 : BitVec 3) (rd : Reg) (op : BitVec 7) (f7 : BitVec 7) (lo : BitVec 5)

@[simp] theorem funct7Of_wordOf_append : funct7Of (wordOf (f7 ++ lo) rs1 f3 rd op) = f7 := by
  rw [funct7Of_eq, funct12Of_wordOf]
  exact BitVec.extractLsb'_append_eq_left

@[simp] theorem imm5Of_wordOf_append : imm5Of (wordOf (f7 ++ lo) rs1 f3 rd op) = lo := by
  rw [imm5Of_eq, funct12Of_wordOf]
  exact BitVec.extractLsb'_append_eq_right

@[simp] theorem rs2Of_wordOf_append (rs2 : Reg) : rs2Of (wordOf (f7 ++ regBits rs2) rs1 f3 rd op) = rs2 :=
  regField_of_extract (imm5Of_wordOf_append ..)

@[simp] theorem rs3Of_wordOf_append (rs3 : Reg) (f2 : BitVec 2) :
    rs3Of (wordOf (regBits rs3 ++ f2 ++ lo) rs1 f3 rd op) = rs3 := by
  refine regField_of_extract ?_
  rw [show (27 : Nat) = 25 + 2 from rfl, ← extractLsb'_extractLsb' _ 25 7 2 5 (by decide)]
  exact (congrArg _ (funct7Of_wordOf_append ..)).trans BitVec.extractLsb'_append_eq_left

@[simp] theorem f2Of_wordOf_append (rs3 : Reg) (f2 : BitVec 2) :
    f2Of (wordOf (regBits rs3 ++ f2 ++ lo) rs1 f3 rd op) = f2 := by
  rw [f2Of_eq, funct7Of_wordOf_append]
  exact BitVec.extractLsb'_append_eq_right

@[simp] theorem funct6Of_wordOf_append (f6 imm : BitVec 6) : funct6Of (wordOf (f6 ++ imm) rs1 f3 rd op) = f6 := by
  rw [funct6Of_eq, funct7Of_eq, funct12Of_wordOf, extractLsb'_extractLsb' _ _ _ _ _ (by decide)]
  exact BitVec.extractLsb'_append_eq_left

/-- The rs3 field beside a six-bit immediate, the format of fsri (R73). -/
@[simp] theorem rs3Of_wordOf_append_imm6 (rs3 : Reg) (b : BitVec 1) (imm : BitVec 6) :
    rs3Of (wordOf (regBits rs3 ++ b ++ imm) rs1 f3 rd op) = rs3 := by
  refine regField_of_extract ?_
  rw [show (27 : Nat) = 26 + 1 from rfl, ← extractLsb'_extractLsb' _ 26 6 1 5 (by decide)]
  exact (congrArg _ (funct6Of_wordOf_append ..)).trans BitVec.extractLsb'_append_eq_left

@[simp] theorem imm6Of_wordOf_append (f6 imm : BitVec 6) : imm6Of (wordOf (f6 ++ imm) rs1 f3 rd op) = imm := by
  rw [imm6Of, show (20 : Nat) = 20 + 0 from rfl, ← extractLsb'_extractLsb' _ 20 12 0 6 (by decide)]
  exact (congrArg _ (funct12Of_wordOf ..)).trans BitVec.extractLsb'_append_eq_right

end

/-! ## A word as its fields -/

theorem wordOf_fields (w : InstrWord) : wordOf (funct12Of w) (rs1Of w) (funct3Of w) (rdOf w) (opcodeOf w) = w := by
  have h1 : funct12Of w ++ regBits (rs1Of w) = w.extractLsb' 15 17 := by
    rw [rs1Of, regBits_regField]
    exact BitVec.extractLsb'_append_extractLsb'_eq_extractLsb' rfl
  have h2 : w.extractLsb' 15 17 ++ funct3Of w = w.extractLsb' 12 20 :=
    BitVec.extractLsb'_append_extractLsb'_eq_extractLsb' rfl
  have h3 : w.extractLsb' 12 20 ++ regBits (rdOf w) = w.extractLsb' 7 25 := by
    rw [rdOf, regBits_regField]
    exact BitVec.extractLsb'_append_extractLsb'_eq_extractLsb' rfl
  have h4 : w.extractLsb' 7 25 ++ opcodeOf w = w.extractLsb' 0 32 :=
    BitVec.extractLsb'_append_extractLsb'_eq_extractLsb' rfl
  rw [wordOf, h1, h2, h3, h4, BitVec.extractLsb'_eq_self]

end Sys2Proof
end

section
/-!
SUPPORT. The decoder of the table, one equation per format of each opcode (30_encoding.md R61 to R65).
-/
namespace Sys2Proof

/-! ## The formats of the four opcodes -/

theorem opcodes_distinct : op32 ≠ opOp ∧ opImm ≠ opOp ∧ opImm ≠ op32 ∧ opImm32 ≠ opOp ∧ opImm32 ≠ op32 ∧
    opImm32 ≠ opImm := by decide

section
variable {w : InstrWord}

theorem decodeRow_opOp_ternary (hop : opcodeOf w = opOp) (ht : ternaryBit w = true) : decodeRow w =
    (opTernaryRows.lookup (f2Of w ++ funct3Of w)).map fun mk => mk (rdOf w) (rs1Of w) (rs2Of w) (rs3Of w) := by
  simp [decodeRow, hop, ht]

theorem decodeRow_opOp_binary (hop : opcodeOf w = opOp) (ht : ternaryBit w = false) : decodeRow w =
    (opRows.lookup (funct7Of w ++ funct3Of w)).map fun mk => mk (rdOf w) (rs1Of w) (rs2Of w) := by
  simp [decodeRow, hop, ht]

theorem decodeRow_op32_ternary (hop : opcodeOf w = op32) (ht : ternaryBit w = true) : decodeRow w =
    (op32TernaryRows.lookup (f2Of w ++ funct3Of w)).map fun mk => mk (rdOf w) (rs1Of w) (rs2Of w) (rs3Of w) := by
  simp [decodeRow, hop, ht, opcodes_distinct]

theorem decodeRow_op32_binary (hop : opcodeOf w = op32) (ht : ternaryBit w = false) : decodeRow w =
    (op32Rows.lookup (funct7Of w ++ funct3Of w)).map fun mk => mk (rdOf w) (rs1Of w) (rs2Of w) := by
  simp [decodeRow, hop, ht, opcodes_distinct]

theorem decodeRow_opImm_ternary (hop : opcodeOf w = opImm) (ht : ternaryBit w = true) : decodeRow w =
    if funct3Of w = 0b101#3 then some (.fsri (rdOf w) (rs1Of w) (rs3Of w) (imm6Of w)) else none := by
  simp [decodeRow, hop, ht, opcodes_distinct]

theorem decodeRow_opImm_shamt (hop : opcodeOf w = opImm) (ht : ternaryBit w = false) {mk : Reg → Reg → BitVec 6 → Instr}
    (h : opImmShamtRows.lookup (funct6Of w ++ funct3Of w) = some mk) :
    decodeRow w = some (mk (rdOf w) (rs1Of w) (imm6Of w)) := by
  simp [decodeRow, hop, ht, h, opcodes_distinct]

theorem decodeRow_opImm_shfl (hop : opcodeOf w = opImm) (ht : ternaryBit w = false)
    (h6 : opImmShamtRows.lookup (funct6Of w ++ funct3Of w) = none) {mk : Reg → Reg → BitVec 5 → Instr}
    (h : opImmShflRows.lookup (funct7Of w ++ funct3Of w) = some mk) :
    decodeRow w = some (mk (rdOf w) (rs1Of w) (imm5Of w)) := by
  simp [decodeRow, hop, ht, h6, h, opcodes_distinct]

theorem decodeRow_opImm_unary (hop : opcodeOf w = opImm) (ht : ternaryBit w = false)
    (h6 : opImmShamtRows.lookup (funct6Of w ++ funct3Of w) = none)
    (h7 : opImmShflRows.lookup (funct7Of w ++ funct3Of w) = none) :
    decodeRow w = (opImmUnaryRows.lookup (funct12Of w ++ funct3Of w)).map fun mk => mk (rdOf w) (rs1Of w) := by
  simp [decodeRow, hop, ht, h6, h7, opcodes_distinct]

theorem decodeRow_opImm32_ternary (hop : opcodeOf w = opImm32) (ht : ternaryBit w = true) : decodeRow w =
    if f2Of w ++ funct3Of w = 0b10#2 ++ 0b101#3 then some (.fsriw (rdOf w) (rs1Of w) (rs3Of w) (imm5Of w))
    else none := by
  simp [decodeRow, hop, ht, opcodes_distinct]

theorem decodeRow_opImm32_shamt (hop : opcodeOf w = opImm32) (ht : ternaryBit w = false)
    {mk : Reg → Reg → BitVec 6 → Instr} (h : opImm32ShamtRows.lookup (funct6Of w ++ funct3Of w) = some mk) :
    decodeRow w = some (mk (rdOf w) (rs1Of w) (imm6Of w)) := by
  simp [decodeRow, hop, ht, h, opcodes_distinct]

theorem decodeRow_opImm32_shamtw (hop : opcodeOf w = opImm32) (ht : ternaryBit w = false)
    (h6 : opImm32ShamtRows.lookup (funct6Of w ++ funct3Of w) = none) {mk : Reg → Reg → BitVec 5 → Instr}
    (h : opImm32ShamtwRows.lookup (funct7Of w ++ funct3Of w) = some mk) :
    decodeRow w = some (mk (rdOf w) (rs1Of w) (imm5Of w)) := by
  simp [decodeRow, hop, ht, h6, h, opcodes_distinct]

theorem decodeRow_opImm32_unary (hop : opcodeOf w = opImm32) (ht : ternaryBit w = false)
    (h6 : opImm32ShamtRows.lookup (funct6Of w ++ funct3Of w) = none)
    (h7 : opImm32ShamtwRows.lookup (funct7Of w ++ funct3Of w) = none) :
    decodeRow w = (opImm32UnaryRows.lookup (funct12Of w ++ funct3Of w)).map fun mk => mk (rdOf w) (rs1Of w) := by
  simp [decodeRow, hop, ht, h6, h7, opcodes_distinct]

/-- A word of any other opcode is no row (R61). -/
theorem decodeRow_other (hop : opcodeOf w ∉ [opOp, opImm, op32, opImm32]) : decodeRow w = none := by
  simp only [List.mem_cons, List.not_mem_nil, or_false, not_or] at hop
  obtain ⟨h1, h2, h3, h4⟩ := hop
  simp [decodeRow, h1, h2, h3, h4]

end

end Sys2Proof
end

section
/-!
SUPPORT. The row that the word of an instruction is read as: the instruction itself, or the wider instruction whose word
it is (48_pseudo_instructions.md R341).
-/
namespace Sys2Proof

open Sys2Proof.Laws.MajorOpcode (opcodeOf_wordOf)

/-! ## The word of each format -/

section
variable {f7 : BitVec 7} {f6 : BitVec 6} {f2 : BitVec 2} {f12 : BitVec 12} {f3 : BitVec 3} (rd rs1 rs2 rs3 : Reg)

theorem decodeRow_rType_opOp {mk : Reg → Reg → Reg → Instr} (ht : f7[1] = false)
    (h : opRows.lookup (f7 ++ f3) = some mk) : decodeRow (rType f7 f3 opOp rd rs1 rs2) = some (mk rd rs1 rs2) := by
  simp [rType, decodeRow_opOp_binary, opcodeOf_wordOf, ternaryBit_eq, ht, h]

theorem decodeRow_rType_op32 {mk : Reg → Reg → Reg → Instr} (ht : f7[1] = false)
    (h : op32Rows.lookup (f7 ++ f3) = some mk) : decodeRow (rType f7 f3 op32 rd rs1 rs2) = some (mk rd rs1 rs2) := by
  simp [rType, decodeRow_op32_binary, opcodeOf_wordOf, ternaryBit_eq, ht, h]

theorem decodeRow_r4Type_opOp {mk : Reg → Reg → Reg → Reg → Instr} (ht : f2[1] = true)
    (h : opTernaryRows.lookup (f2 ++ f3) = some mk) :
    decodeRow (r4Type f2 f3 opOp rd rs1 rs2 rs3) = some (mk rd rs1 rs2 rs3) := by
  simp [r4Type, decodeRow_opOp_ternary, opcodeOf_wordOf, ternaryBit_eq_f2Of, ht, h]

theorem decodeRow_r4Type_op32 {mk : Reg → Reg → Reg → Reg → Instr} (ht : f2[1] = true)
    (h : op32TernaryRows.lookup (f2 ++ f3) = some mk) :
    decodeRow (r4Type f2 f3 op32 rd rs1 rs2 rs3) = some (mk rd rs1 rs2 rs3) := by
  simp [r4Type, decodeRow_op32_ternary, opcodeOf_wordOf, ternaryBit_eq_f2Of, ht, h]

theorem decodeRow_shamtType_opImm {mk : Reg → Reg → BitVec 6 → Instr} (ht : f6[0] = false)
    (h : opImmShamtRows.lookup (f6 ++ f3) = some mk) (imm : BitVec 6) :
    decodeRow (shamtType f6 f3 opImm rd rs1 imm) = some (mk rd rs1 imm) := by
  rw [shamtType, decodeRow_opImm_shamt (mk := mk)] <;> simp [opcodeOf_wordOf, ternaryBit_eq_funct6Of, ht, h]

theorem decodeRow_shamtType_opImm32 {mk : Reg → Reg → BitVec 6 → Instr} (ht : f6[0] = false)
    (h : opImm32ShamtRows.lookup (f6 ++ f3) = some mk) (imm : BitVec 6) :
    decodeRow (shamtType f6 f3 opImm32 rd rs1 imm) = some (mk rd rs1 imm) := by
  rw [shamtType, decodeRow_opImm32_shamt (mk := mk)] <;> simp [opcodeOf_wordOf, ternaryBit_eq_funct6Of, ht, h]

theorem decodeRow_shamtwType_opImm {mk : Reg → Reg → BitVec 5 → Instr} (ht : f7[1] = false)
    (h6 : opImmShamtRows.lookup (f7.extractLsb' 1 6 ++ f3) = none) (h : opImmShflRows.lookup (f7 ++ f3) = some mk)
    (imm : BitVec 5) : decodeRow (shamtwType f7 f3 opImm rd rs1 imm) = some (mk rd rs1 imm) := by
  rw [shamtwType, decodeRow_opImm_shfl (mk := mk)] <;> simp [opcodeOf_wordOf, ternaryBit_eq, funct6Of_eq, ht, h6, h]

theorem decodeRow_shamtwType_opImm32 {mk : Reg → Reg → BitVec 5 → Instr} (ht : f7[1] = false)
    (h6 : opImm32ShamtRows.lookup (f7.extractLsb' 1 6 ++ f3) = none) (h : opImm32ShamtwRows.lookup (f7 ++ f3) = some mk)
    (imm : BitVec 5) : decodeRow (shamtwType f7 f3 opImm32 rd rs1 imm) = some (mk rd rs1 imm) := by
  rw [shamtwType, decodeRow_opImm32_shamtw (mk := mk)] <;> simp [opcodeOf_wordOf, ternaryBit_eq, funct6Of_eq, ht, h6, h]

theorem decodeRow_unaryType_opImm {mk : Reg → Reg → Instr} (ht : f12[6] = false)
    (h6 : opImmShamtRows.lookup ((f12.extractLsb' 5 7).extractLsb' 1 6 ++ f3) = none)
    (h7 : opImmShflRows.lookup (f12.extractLsb' 5 7 ++ f3) = none)
    (h : opImmUnaryRows.lookup (f12 ++ f3) = some mk) :
    decodeRow (unaryType f12 f3 opImm rd rs1) = some (mk rd rs1) := by
  rw [unaryType, decodeRow_opImm_unary] <;>
    simp [opcodeOf_wordOf, ternaryBit_eq, funct6Of_eq, funct7Of_eq, ht, h6, h7, h]

theorem decodeRow_unaryType_opImm32 {mk : Reg → Reg → Instr} (ht : f12[6] = false)
    (h6 : opImm32ShamtRows.lookup ((f12.extractLsb' 5 7).extractLsb' 1 6 ++ f3) = none)
    (h7 : opImm32ShamtwRows.lookup (f12.extractLsb' 5 7 ++ f3) = none)
    (h : opImm32UnaryRows.lookup (f12 ++ f3) = some mk) :
    decodeRow (unaryType f12 f3 opImm32 rd rs1) = some (mk rd rs1) := by
  rw [unaryType, decodeRow_opImm32_unary] <;>
    simp [opcodeOf_wordOf, ternaryBit_eq, funct6Of_eq, funct7Of_eq, ht, h6, h7, h]

theorem decodeRow_fsri (x : Xlen) (imm : BitVec 6) :
    decodeRow (encode x (.fsri rd rs1 rs3 imm)) = some (.fsri rd rs1 rs3 imm) := by
  have hbit : (regBits rs3 ++ 1#1)[0] = true := BitVec.getElem_append _
  rw [decodeRow_opImm_ternary] <;> simp [encode, opcodeOf_wordOf, ternaryBit_eq_funct6Of]
  exact hbit

theorem decodeRow_fsriw (x : Xlen) (imm : BitVec 5) :
    decodeRow (encode x (.fsriw rd rs1 rs3 imm)) = some (.fsriw rd rs1 rs3 imm) := by
  rw [decodeRow_opImm32_ternary] <;> simp [encode, opcodeOf_wordOf, ternaryBit_eq_f2Of]

end

/-! ## The row of a word -/

/-- The instruction of R92 whose word an instruction has: itself, unless it is a fixed word of R341. -/
def Instr.wide (x : Xlen) : Instr → Instr
  | .zextH rd rs1 => match x with
    | .rv32 => .pack rd rs1 0
    | .rv64 => .packw rd rs1 0
  | .rev8 rd rs1 => .grevi rd rs1 (rev8Imm x)
  | .orcB rd rs1 => .gorci rd rs1 7#6
  | .unzip8 rd rs1 => .unshfli rd rs1 24#5
  | .unzip16 rd rs1 => .unshfli rd rs1 16#5
  | i => i

/-- A fixed word of R341 is the word of the wider instruction. -/
theorem encode_wide (x : Xlen) (i : Instr) : encode x (i.wide x) = encode x i := by
  cases i with
  | zextH rd rs1 => cases x <;> rfl
  | _ => rfl

/-- The word of an instruction is read as the wider instruction whose word it is. -/
theorem decodeRow_encode (x : Xlen) (i : Instr) : decodeRow (encode x i) = some (i.wide x) := by
  rw [← encode_wide]
  cases i with
  | andn | orn | xnor | pack | packu | packh | min | minu | max | maxu | bset | bclr | binv | bextZbs | slo | sro | rol
  | ror | grev | gorc | shfl | unshfl | xpermN | xpermB | xpermH | xpermW | bfp | bextZbe | bdep | clmul | clmulh | clmulr
  | bmatxor | bmator | sh1add | sh2add | sh3add | and | or | xor | sll | srl | sra =>
    exact decodeRow_rType_opOp _ _ _ rfl rfl
  | packw | packuw | bsetw | bclrw | binvw | bextwZbs | slow | srow | rolw | rorw | grevw | gorcw | shflw | unshflw | bfpw
  | bextwZbe | bdepw | sh1addUw | sh2addUw | sh3addUw | addUw => exact decodeRow_rType_op32 _ _ _ rfl rfl
  | cmix | cmov | fsl | fsr => exact decodeRow_r4Type_opOp _ _ _ _ rfl rfl
  | fslw | fsrw => exact decodeRow_r4Type_op32 _ _ _ _ rfl rfl
  | bseti | bclri | binvi | bexti | sloi | sroi | rori | grevi | gorci | slli | srli | srai | rev8 | orcB =>
    exact decodeRow_shamtType_opImm _ _ rfl rfl _
  | shfli | unshfli | unzip8 | unzip16 => exact decodeRow_shamtwType_opImm _ _ rfl rfl rfl _
  | clz | ctz | cpop | sextB | sextH | crc32B | crc32H | crc32W | crc32D | crc32cB | crc32cH | crc32cW | crc32cD
  | bmatflip => exact decodeRow_unaryType_opImm _ _ rfl rfl rfl rfl
  | slliUw => exact decodeRow_shamtType_opImm32 _ _ rfl rfl _
  | bsetiw | bclriw | binviw | sloiw | sroiw | roriw | greviw | gorciw =>
    exact decodeRow_shamtwType_opImm32 _ _ rfl rfl rfl _
  | clzw | ctzw | cpopw => exact decodeRow_unaryType_opImm32 _ _ rfl rfl rfl rfl
  | fsri => exact decodeRow_fsri _ _ _ x _
  | fsriw => exact decodeRow_fsriw _ _ _ x _
  | zextH =>
    cases x with
    | rv32 => exact decodeRow_rType_opOp _ _ _ rfl rfl
    | rv64 => exact decodeRow_rType_op32 _ _ _ rfl rfl

end Sys2Proof
end

section
/-!
SUPPORT. Whatever row a word is read as has that word: the function bits of the row and the fields of its format are all
32 bits, so no bit is dropped.
-/
namespace Sys2Proof

/-! ## The words of the rows of each list -/

theorem append_inj {m n : Nat} {hi hi' : BitVec m} {lo lo' : BitVec n} (h : hi ++ lo = hi' ++ lo') :
    hi = hi' ∧ lo = lo' := by
  have hhi := congrArg (BitVec.extractLsb' n m) h
  have hlo := congrArg (BitVec.extractLsb' 0 n) h
  rw [BitVec.extractLsb'_append_eq_left, BitVec.extractLsb'_append_eq_left] at hhi
  rw [BitVec.extractLsb'_append_eq_right, BitVec.extractLsb'_append_eq_right] at hlo
  exact ⟨hhi, hlo⟩

/-- What holds of every row of a list holds of the row a lookup finds. -/
theorem of_lookup {n : Nat} {α : Type} {P : BitVec n → α → Prop} {rows : List (BitVec n × α)}
    (hrows : ∀ row ∈ rows, P row.1 row.2) {key : BitVec n} {mk : α} (h : rows.lookup key = some mk) : P key mk := by
  obtain ⟨l₁, l₂, rfl, -⟩ := List.lookup_eq_some_iff.mp h
  exact hrows (key, mk) (List.mem_append_right l₁ List.mem_cons_self)

/-- The same in terms of the two parts of a key. -/
theorem of_lookup_append {m n : Nat} {α : Type} {P : BitVec m → BitVec n → α → Prop}
    {rows : List (BitVec (m + n) × α)} (hrows : ∀ row ∈ rows, P (row.1.extractLsb' n m) (row.1.extractLsb' 0 n) row.2)
    {hi : BitVec m} {lo : BitVec n} {mk : α} (h : rows.lookup (hi ++ lo) = some mk) : P hi lo mk := by
  have hkey := of_lookup (P := fun key => P (key.extractLsb' n m) (key.extractLsb' 0 n)) hrows h
  rwa [BitVec.extractLsb'_append_eq_left, BitVec.extractLsb'_append_eq_right] at hkey

/-- `mk` builds the instructions with these function bits in R-type words of the opcode (R63). -/
def EncodesR (op f7 : BitVec 7) (f3 : BitVec 3) (mk : Reg → Reg → Reg → Instr) : Prop :=
  ∀ x rd rs1 rs2, encode x (mk rd rs1 rs2) = rType f7 f3 op rd rs1 rs2

/-- `mk` builds the instructions with these function bits in R4-type words of the opcode (R64). -/
def EncodesR4 (op : BitVec 7) (f2 : BitVec 2) (f3 : BitVec 3) (mk : Reg → Reg → Reg → Reg → Instr) : Prop :=
  ∀ x rd rs1 rs2 rs3, encode x (mk rd rs1 rs2 rs3) = r4Type f2 f3 op rd rs1 rs2 rs3

/-- `mk` builds the instructions with these function bits above a six-bit immediate (R65). -/
def EncodesImm6 (op : BitVec 7) (f6 : BitVec 6) (f3 : BitVec 3) (mk : Reg → Reg → BitVec 6 → Instr) : Prop :=
  ∀ x rd rs1 imm, encode x (mk rd rs1 imm) = shamtType f6 f3 op rd rs1 imm

/-- `mk` builds the instructions with these function bits above a five-bit immediate (R65). -/
def EncodesImm5 (op f7 : BitVec 7) (f3 : BitVec 3) (mk : Reg → Reg → BitVec 5 → Instr) : Prop :=
  ∀ x rd rs1 imm, encode x (mk rd rs1 imm) = shamtwType f7 f3 op rd rs1 imm

/-- `mk` builds the instructions whose I-type field is this function code (R75). -/
def EncodesUnary (op : BitVec 7) (f12 : BitVec 12) (f3 : BitVec 3) (mk : Reg → Reg → Instr) : Prop :=
  ∀ x rd rs1, encode x (mk rd rs1) = unaryType f12 f3 op rd rs1

theorem opRows_encode : ∀ row ∈ opRows, EncodesR opOp (row.1.extractLsb' 3 7) (row.1.extractLsb' 0 3) row.2 := by
  intro row h
  fin_cases h <;> exact fun _ _ _ _ => rfl

theorem op32Rows_encode : ∀ row ∈ op32Rows, EncodesR op32 (row.1.extractLsb' 3 7) (row.1.extractLsb' 0 3) row.2 := by
  intro row h
  fin_cases h <;> exact fun _ _ _ _ => rfl

theorem opTernaryRows_encode :
    ∀ row ∈ opTernaryRows, EncodesR4 opOp (row.1.extractLsb' 3 2) (row.1.extractLsb' 0 3) row.2 := by
  intro row h
  fin_cases h <;> exact fun _ _ _ _ _ => rfl

theorem op32TernaryRows_encode :
    ∀ row ∈ op32TernaryRows, EncodesR4 op32 (row.1.extractLsb' 3 2) (row.1.extractLsb' 0 3) row.2 := by
  intro row h
  fin_cases h <;> exact fun _ _ _ _ _ => rfl

theorem opImmShamtRows_encode :
    ∀ row ∈ opImmShamtRows, EncodesImm6 opImm (row.1.extractLsb' 3 6) (row.1.extractLsb' 0 3) row.2 := by
  intro row h
  fin_cases h <;> exact fun _ _ _ _ => rfl

theorem opImm32ShamtRows_encode :
    ∀ row ∈ opImm32ShamtRows, EncodesImm6 opImm32 (row.1.extractLsb' 3 6) (row.1.extractLsb' 0 3) row.2 := by
  intro row h
  fin_cases h
  exact fun _ _ _ _ => rfl

theorem opImmShflRows_encode :
    ∀ row ∈ opImmShflRows, EncodesImm5 opImm (row.1.extractLsb' 3 7) (row.1.extractLsb' 0 3) row.2 := by
  intro row h
  fin_cases h <;> exact fun _ _ _ _ => rfl

theorem opImm32ShamtwRows_encode :
    ∀ row ∈ opImm32ShamtwRows, EncodesImm5 opImm32 (row.1.extractLsb' 3 7) (row.1.extractLsb' 0 3) row.2 := by
  intro row h
  fin_cases h <;> exact fun _ _ _ _ => rfl

theorem opImmUnaryRows_encode :
    ∀ row ∈ opImmUnaryRows, EncodesUnary opImm (row.1.extractLsb' 3 12) (row.1.extractLsb' 0 3) row.2 := by
  intro row h
  fin_cases h <;> exact fun _ _ _ => rfl

theorem opImm32UnaryRows_encode :
    ∀ row ∈ opImm32UnaryRows, EncodesUnary opImm32 (row.1.extractLsb' 3 12) (row.1.extractLsb' 0 3) row.2 := by
  intro row h
  fin_cases h <;> exact fun _ _ _ => rfl

/-! ## The fields of each format -/

section
variable {w : InstrWord} {op : BitVec 7}

theorem unaryType_fields (hop : opcodeOf w = op) :
    unaryType (funct12Of w) (funct3Of w) op (rdOf w) (rs1Of w) = w := by
  rw [unaryType, ← hop, wordOf_fields]

theorem shamtType_fields (hop : opcodeOf w = op) :
    shamtType (funct6Of w) (funct3Of w) op (rdOf w) (rs1Of w) (imm6Of w) = w := by
  rw [shamtType, funct6Of_append_imm6Of, ← hop, wordOf_fields]

theorem shamtwType_fields (hop : opcodeOf w = op) :
    shamtwType (funct7Of w) (funct3Of w) op (rdOf w) (rs1Of w) (imm5Of w) = w := by
  rw [shamtwType, funct7Of_append_imm5Of, ← hop, wordOf_fields]

theorem rType_fields (hop : opcodeOf w = op) :
    rType (funct7Of w) (funct3Of w) op (rdOf w) (rs1Of w) (rs2Of w) = w := by
  rw [rType, regBits_rs2Of, funct7Of_append_imm5Of, ← hop, wordOf_fields]

theorem r4Type_fields (hop : opcodeOf w = op) :
    r4Type (f2Of w) (funct3Of w) op (rdOf w) (rs1Of w) (rs2Of w) (rs3Of w) = w := by
  rw [r4Type, regBits_rs3Of_append_f2Of, regBits_rs2Of, funct7Of_append_imm5Of, ← hop, wordOf_fields]

/-- The fields of fsri: rs3, the ternary bit, a six-bit immediate (R73). -/
theorem encode_fsri_fields (hop : opcodeOf w = opImm) (ht : ternaryBit w = true) (h3 : funct3Of w = 0b101#3) (x : Xlen) :
    encode x (.fsri (rdOf w) (rs1Of w) (rs3Of w) (imm6Of w)) = w := by
  have hbit : w.extractLsb' 26 1 = 1#1 := by
    ext i hi
    obtain rfl : i = 0 := by omega
    simpa [ternaryBit] using ht
  have htop : regBits (rs3Of w) ++ 1#1 = funct6Of w := by
    rw [rs3Of, regBits_regField, ← hbit]
    exact BitVec.extractLsb'_append_extractLsb'_eq_extractLsb' rfl
  rw [encode, ← h3, ← hop, htop, funct6Of_append_imm6Of, wordOf_fields]

/-- The fields of fsriw: rs3, the ternary bits, a five-bit immediate (R74). -/
theorem encode_fsriw_fields (hop : opcodeOf w = opImm32) (h : f2Of w ++ funct3Of w = 0b10#2 ++ 0b101#3) (x : Xlen) :
    encode x (.fsriw (rdOf w) (rs1Of w) (rs3Of w) (imm5Of w)) = w := by
  obtain ⟨h2, h3⟩ := append_inj h
  rw [encode, ← h2, ← h3, ← hop, regBits_rs3Of_append_f2Of, funct7Of_append_imm5Of, wordOf_fields]

end

/-! ## The word of a row -/

section
variable {w : InstrWord} {i : Instr} (h : decodeRow w = some i) (x : Xlen)
include h

theorem encode_of_decodeRow_opOp (hop : opcodeOf w = opOp) : encode x i = w := by
  cases ht : ternaryBit w with
  | true =>
    rw [decodeRow_opOp_ternary hop ht] at h
    obtain ⟨mk, hmk, rfl⟩ := Option.map_eq_some_iff.mp h
    exact (of_lookup_append opTernaryRows_encode hmk x ..).trans (r4Type_fields hop)
  | false =>
    rw [decodeRow_opOp_binary hop ht] at h
    obtain ⟨mk, hmk, rfl⟩ := Option.map_eq_some_iff.mp h
    exact (of_lookup_append opRows_encode hmk x ..).trans (rType_fields hop)

theorem encode_of_decodeRow_op32 (hop : opcodeOf w = op32) : encode x i = w := by
  cases ht : ternaryBit w with
  | true =>
    rw [decodeRow_op32_ternary hop ht] at h
    obtain ⟨mk, hmk, rfl⟩ := Option.map_eq_some_iff.mp h
    exact (of_lookup_append op32TernaryRows_encode hmk x ..).trans (r4Type_fields hop)
  | false =>
    rw [decodeRow_op32_binary hop ht] at h
    obtain ⟨mk, hmk, rfl⟩ := Option.map_eq_some_iff.mp h
    exact (of_lookup_append op32Rows_encode hmk x ..).trans (rType_fields hop)

theorem encode_of_decodeRow_opImm (hop : opcodeOf w = opImm) : encode x i = w := by
  cases ht : ternaryBit w with
  | true =>
    obtain ⟨h3, rfl⟩ : funct3Of w = 0b101#3 ∧ _ = i := by simpa [decodeRow_opImm_ternary hop ht] using h
    exact encode_fsri_fields hop ht h3 x
  | false =>
    cases h6 : opImmShamtRows.lookup (funct6Of w ++ funct3Of w) with
    | some mk =>
      obtain rfl := Option.some.inj ((decodeRow_opImm_shamt hop ht h6).symm.trans h)
      exact (of_lookup_append opImmShamtRows_encode h6 x ..).trans (shamtType_fields hop)
    | none =>
      cases h7 : opImmShflRows.lookup (funct7Of w ++ funct3Of w) with
      | some mk =>
        obtain rfl := Option.some.inj ((decodeRow_opImm_shfl hop ht h6 h7).symm.trans h)
        exact (of_lookup_append opImmShflRows_encode h7 x ..).trans (shamtwType_fields hop)
      | none =>
        rw [decodeRow_opImm_unary hop ht h6 h7] at h
        obtain ⟨mk, hmk, rfl⟩ := Option.map_eq_some_iff.mp h
        exact (of_lookup_append opImmUnaryRows_encode hmk x ..).trans (unaryType_fields hop)

theorem encode_of_decodeRow_opImm32 (hop : opcodeOf w = opImm32) : encode x i = w := by
  cases ht : ternaryBit w with
  | true =>
    obtain ⟨hkey, rfl⟩ : f2Of w ++ funct3Of w = 0b10#2 ++ 0b101#3 ∧ _ = i := by
      simpa only [decodeRow_opImm32_ternary hop ht, Option.ite_none_right_eq_some, Option.some.injEq] using h
    exact encode_fsriw_fields hop hkey x
  | false =>
    cases h6 : opImm32ShamtRows.lookup (funct6Of w ++ funct3Of w) with
    | some mk =>
      obtain rfl := Option.some.inj ((decodeRow_opImm32_shamt hop ht h6).symm.trans h)
      exact (of_lookup_append opImm32ShamtRows_encode h6 x ..).trans (shamtType_fields hop)
    | none =>
      cases h7 : opImm32ShamtwRows.lookup (funct7Of w ++ funct3Of w) with
      | some mk =>
        obtain rfl := Option.some.inj ((decodeRow_opImm32_shamtw hop ht h6 h7).symm.trans h)
        exact (of_lookup_append opImm32ShamtwRows_encode h7 x ..).trans (shamtwType_fields hop)
      | none =>
        rw [decodeRow_opImm32_unary hop ht h6 h7] at h
        obtain ⟨mk, hmk, rfl⟩ := Option.map_eq_some_iff.mp h
        exact (of_lookup_append opImm32UnaryRows_encode hmk x ..).trans (unaryType_fields hop)

/-- A word that is read as a row is the word of that row. -/
theorem encode_of_decodeRow : encode x i = w := by
  have hop : opcodeOf w ∈ [opOp, opImm, op32, opImm32] := by
    by_contra hop
    rw [decodeRow_other hop] at h
    cases h
  simp only [List.mem_cons, List.not_mem_nil, or_false] at hop
  rcases hop with hop | hop | hop | hop
  · exact encode_of_decodeRow_opOp h x hop
  · exact encode_of_decodeRow_opImm h x hop
  · exact encode_of_decodeRow_op32 h x hop
  · exact encode_of_decodeRow_opImm32 h x hop

end

end Sys2Proof
end

section
/-!
SUPPORT. When the decoder of a configured machine answers an instruction (30_encoding.md R83 to R85), and that the fixed
words of 48_pseudo_instructions.md R341 pass its checks exactly as the wider instructions whose words they are.
-/
namespace Sys2Proof

/-! ## The checks of the decoder -/

/-- A word decodes to the instruction its row is named as, if the row and the immediate exist at this XLEN and a
sub-extension of EXTS lists that instruction. -/
theorem decode_eq_ok_iff {x : Xlen} {e : Exts} {w : InstrWord} {i : Instr} : decode x e w = .ok i ↔
    ∃ j, decodeRow w = some j ∧ j.widthOk x = true ∧ j.immFits x = true ∧ j.named x = i ∧ i.implemented x e = true := by
  unfold decode
  cases decodeRow w with
  | none => simp
  | some j =>
    have hwidth : j.widthOk x = true ↔ ¬(x = .rv32 ∧ j.rv64Only = true) := by cases x <;> simp [Instr.widthOk]
    simp only [Option.some.injEq, exists_eq_left', hwidth]
    split
    next hnarrow => simp [hnarrow]
    next hwide =>
      split
      next himm => split <;> grind
      next himm => simp [himm]

/-- Whether the word of an instruction decodes at all. -/
theorem exists_decode_encode_iff {x : Xlen} {e : Exts} {i : Instr} : (∃ k, decode x e (encode x i) = .ok k) ↔
    (i.wide x).widthOk x = true ∧ (i.wide x).immFits x = true ∧ ((i.wide x).named x).implemented x e = true := by
  simp [decode_eq_ok_iff, decodeRow_encode]

/-- Whether a word decodes that is its own wide form and passes the checks of the width: its name decides. -/
theorem exists_decode_iff_implemented {x : Xlen} {e : Exts} {i : Instr} (hwide : i.wide x = i)
    (hwidth : i.widthOk x = true) (himm : i.immFits x = true) :
    (∃ k, decode x e (encode x i) = .ok k) ↔ (i.named x).implemented x e = true := by
  simp [exists_decode_encode_iff, hwide, hwidth, himm]

/-- A word whose name no sub-extension of EXTS lists does not decode. -/
theorem not_decode_of_not_implemented {x : Xlen} {e : Exts} {i : Instr} (hwide : i.wide x = i)
    (h : (i.named x).implemented x e = false) (k : Instr) : decode x e (encode x i) ≠ .ok k := by
  intro hk
  obtain ⟨-, -, himpl⟩ := exists_decode_encode_iff.mp ⟨k, hk⟩
  rw [hwide, h] at himpl
  cases himpl

/-! ## The fixed words of R341 -/

section
variable (rd rs1 rs2 : Reg)

theorem named_pack_rv32 : (Instr.pack rd rs1 rs2).named .rv32 = if rs2 = 0 then .zextH rd rs1 else .pack rd rs1 rs2 :=
  rfl

theorem named_packw_rv64 : (Instr.packw rd rs1 rs2).named .rv64 = if rs2 = 0 then .zextH rd rs1 else .packw rd rs1 rs2 :=
  rfl

theorem named_grevi (x : Xlen) (imm : BitVec 6) :
    (Instr.grevi rd rs1 imm).named x = if imm = rev8Imm x then .rev8 rd rs1 else .grevi rd rs1 imm := by
  cases x <;> rfl

theorem named_gorci (x : Xlen) (imm : BitVec 6) :
    (Instr.gorci rd rs1 imm).named x = if imm = 7#6 then .orcB rd rs1 else .gorci rd rs1 imm := by
  cases x <;> rfl

theorem named_unshfli_rv64 (imm : BitVec 5) : (Instr.unshfli rd rs1 imm).named .rv64 =
    if imm = 24#5 then .unzip8 rd rs1 else if imm = 16#5 then .unzip16 rd rs1 else .unshfli rd rs1 imm := rfl

end

/-- On a machine that has an instruction, its wide form passes the same checks and is named as the instruction. -/
theorem named_wide {x : Xlen} {i : Instr} (hw : i.widthOk x = true) (hn : i.nameOk x = true) :
    (i.wide x).named x = i := by
  cases i with
  | zextH | rev8 | orcB => cases x <;> rfl
  | unzip8 | unzip16 =>
    cases x with
    | rv32 => cases hw
    | rv64 => rfl
  | _ => exact of_decide_eq_true hn

theorem widthOk_wide {x : Xlen} {i : Instr} (hw : i.widthOk x = true) : (i.wide x).widthOk x = true := by
  cases i with
  | zextH | rev8 | orcB | unzip8 | unzip16 => cases x <;> rfl
  | _ => exact hw

theorem immFits_wide {x : Xlen} {i : Instr} (hw : i.widthOk x = true) (hi : i.immFits x = true) :
    (i.wide x).immFits x = true := by
  cases i with
  | zextH | rev8 | orcB => cases x <;> rfl
  | unzip8 | unzip16 =>
    cases x with
    | rv32 => cases hw
    | rv64 => rfl
  | _ => exact hi

/-- What an instruction is named as: itself, or a fixed word of R341 whose wide form it is, which passes the checks. -/
theorem named_cases (x : Xlen) (i : Instr) :
    i.named x = i ∨ (i.named x).wide x = i ∧ (i.named x).widthOk x = true ∧ (i.named x).immFits x = true ∧
      (i.named x).named x = i.named x := by
  cases i with
  | pack rd rs1 rs2 =>
    cases x with
    | rv32 =>
      by_cases h : rs2 = 0
      · exact .inr (h ▸ ⟨rfl, rfl, rfl, rfl⟩)
      · exact .inl ((named_pack_rv32 ..).trans (if_neg h))
    | rv64 => exact .inl rfl
  | packw rd rs1 rs2 =>
    cases x with
    | rv32 => exact .inl rfl
    | rv64 =>
      by_cases h : rs2 = 0
      · exact .inr (h ▸ ⟨rfl, rfl, rfl, rfl⟩)
      · exact .inl ((named_packw_rv64 ..).trans (if_neg h))
  | grevi rd rs1 imm =>
    by_cases h : imm = rev8Imm x
    · exact .inr (by subst h; cases x <;> exact ⟨rfl, rfl, rfl, rfl⟩)
    · exact .inl ((named_grevi ..).trans (if_neg h))
  | gorci rd rs1 imm =>
    by_cases h : imm = 7#6
    · exact .inr (by subst h; cases x <;> exact ⟨rfl, rfl, rfl, rfl⟩)
    · exact .inl ((named_gorci ..).trans (if_neg h))
  | unshfli rd rs1 imm =>
    cases x with
    | rv32 => exact .inl rfl
    | rv64 =>
      by_cases h8 : imm = 24#5
      · exact .inr (h8 ▸ ⟨rfl, rfl, rfl, rfl⟩)
      by_cases h16 : imm = 16#5
      · exact .inr (h16 ▸ ⟨rfl, rfl, rfl, rfl⟩)
      · exact .inl ((named_unshfli_rv64 ..).trans ((if_neg h8).trans (if_neg h16)))
  | _ => cases x <;> exact .inl rfl

end Sys2Proof
end

section
/-!
The statements of 30_encoding.md about the table: decoding and encoding are inverse, and which words decode with few
sub-extensions.
-/
namespace Sys2Proof

/-- Settles O13: the word is read as the wide form of the instruction, which passes the checks and is named as it. -/
theorem decodeOfEncode : Obligations.DecodeOfEncode := by
  rintro x e i ⟨hwidth, himm, hname, hexts⟩
  exact decode_eq_ok_iff.mpr ⟨i.wide x, decodeRow_encode x i, widthOk_wide hwidth, immFits_wide hwidth himm,
    named_wide hwidth hname, hexts⟩

/-- Settles O14: a row has the word it is read from, and so has the fixed word of R341 that the row may be named as. -/
theorem encodeOfDecode : Obligations.EncodeOfDecode := by
  intro x e w i h
  obtain ⟨j, hrow, hwidth, himm, rfl, hexts⟩ := decode_eq_ok_iff.mp h
  rcases named_cases x j with hsame | ⟨hwide, hwidth', himm', hname'⟩
  · rw [hsame] at hexts ⊢
    exact ⟨⟨hwidth, himm, decide_eq_true hsame, hexts⟩, encode_of_decodeRow hrow x⟩
  · refine ⟨⟨hwidth', himm', decide_eq_true hname', hexts⟩, ?_⟩
    rw [← encode_wide, hwide]
    exact encode_of_decodeRow hrow x

/-- Settles O20: without Zbp (and Zbe, Zbf) no sub-extension of EXTS lists the wide instruction, so its word decodes
exactly if it has another name and that name is listed; pack is listed by Zbm as well. -/
theorem pseudoWordsOfNarrowMachines : Obligations.PseudoWordsOfNarrowMachines := by
  intro x e rd rs1 rs2 imm sh hzbp
  refine ⟨?grevi, ?gorci, ?unshfli, ?shfli, fun hzbe hzbf => ⟨?pack, ?packw⟩⟩
  case grevi =>
    by_cases h : imm = rev8Imm x
    · subst h
      rw [exists_decode_iff_implemented rfl (by cases x <;> rfl) (by cases x <;> rfl), named_grevi, if_pos rfl]
      simp [Instr.implemented, hzbp]
    · have himpl : ((Instr.grevi rd rs1 imm).named x).implemented x e = false := by
        rw [named_grevi, if_neg h]
        exact hzbp
      exact iff_of_false (not_exists.mpr (not_decode_of_not_implemented rfl himpl)) (h ·.2)
  case gorci =>
    by_cases h : imm = 7#6
    · subst h
      rw [exists_decode_iff_implemented rfl (by cases x <;> rfl) (by cases x <;> rfl), named_gorci, if_pos rfl]
      simp [Instr.implemented, hzbp]
    · have himpl : ((Instr.gorci rd rs1 imm).named x).implemented x e = false := by
        rw [named_gorci, if_neg h]
        exact hzbp
      exact iff_of_false (not_exists.mpr (not_decode_of_not_implemented rfl himpl)) (h ·.2)
  case unshfli =>
    cases x with
    | rv32 =>
      have hno := not_decode_of_not_implemented (x := .rv32) (i := .unshfli rd rs1 sh) rfl hzbp
      exact iff_of_false (not_exists.mpr hno) (nomatch ·.2.1)
    | rv64 =>
      rw [exists_decode_iff_implemented rfl rfl rfl, named_unshfli_rv64]
      by_cases h8 : sh = 24#5
      · simp [h8, Instr.implemented, hzbp]
      by_cases h16 : sh = 16#5 <;> simp [h8, h16, Instr.implemented, hzbp]
  case shfli => cases x <;> exact not_decode_of_not_implemented (i := .shfli rd rs1 sh) rfl hzbp
  case pack =>
    rw [exists_decode_iff_implemented rfl (by cases x <;> rfl) (by cases x <;> rfl)]
    cases x with
    | rv32 =>
      rw [named_pack_rv32]
      by_cases h : rs2 = 0 <;> simp [h, Instr.implemented, hzbp, hzbe, hzbf]
    | rv64 => simp [Instr.named, Instr.implemented, hzbp, hzbe, hzbf]
  case packw =>
    cases x with
    | rv32 => simp [exists_decode_encode_iff, Instr.wide, Instr.widthOk, Instr.rv64Only]
    | rv64 =>
      rw [exists_decode_iff_implemented rfl rfl rfl, named_packw_rv64]
      by_cases h : rs2 = 0 <;> simp [h, Instr.implemented, hzbp, hzbe, hzbf]

/-- Settles O21: every other row is listed by some sub-extension of EXTS. -/
theorem emptyExtsHasBaseRowsOnly : Obligations.EmptyExtsHasBaseRowsOnly := by
  intro x w i h
  obtain ⟨-, -, -, -, -, himpl⟩ := decode_eq_ok_iff.mp h
  cases i with
  | and rd rs1 rs2 | or rd rs1 rs2 | xor rd rs1 rs2 | sll rd rs1 rs2 | srl rd rs1 rs2 | sra rd rs1 rs2 =>
    exact .inl ⟨rd, rs1, rs2, by simp⟩
  | slli rd rs1 imm | srli rd rs1 imm | srai rd rs1 imm => exact .inr ⟨rd, rs1, imm, by simp⟩
  | _ => cases himpl

/-- Settles O16: each word evaluates to its instruction. -/
theorem sampleWordsDecode : Obligations.SampleWordsDecode :=
  ⟨rfl, rfl, rfl, rfl, rfl, rfl, rfl⟩

/-- Setting bits of the upper part of a word leaves its lower part. -/
theorem append_or_append_zero {m n : Nat} {a b c : BitVec m} (h : a ||| b = c) (lo : BitVec n) :
    a ++ lo ||| b ++ 0#n = c ++ lo := by
  rw [BitVec.or_append, BitVec.or_zero, h]

/-- Setting bit 30 of an R-type word sets bit 5 of its funct7. -/
theorem rType_or_bit30 (f7 : BitVec 7) (f3 : BitVec 3) (op : BitVec 7) (rd rs1 rs2 : Reg) :
    rType f7 f3 op rd rs1 rs2 ||| 1#32 <<< 30 = rType (f7 ||| 0b0100000#7) f3 op rd rs1 rs2 := by
  have hbit : 1#32 <<< 30 = 0b0100000#7 ++ 0#5 ++ 0#5 ++ 0#3 ++ 0#5 ++ 0#7 := by decide
  rw [hbit]
  have hfunct := append_or_append_zero (a := f7) (b := 0b0100000#7) rfl (regBits rs2)
  exact append_or_append_zero (append_or_append_zero (append_or_append_zero (append_or_append_zero hfunct _) _) _) _

/-- An R-type word of OP with funct7 0100000, as a statement about the word with funct7 0 (R79). -/
theorem rType_negated (f3 : BitVec 3) (rd rs1 rs2 : Reg) :
    rType 0b0100000#7 f3 opOp rd rs1 rs2 = rType 0b0000000#7 f3 opOp rd rs1 rs2 ||| 1#32 <<< 30 ∧
    funct7Of (rType 0b0100000#7 f3 opOp rd rs1 rs2) = 0b0100000#7 ∧
    funct3Of (rType 0b0100000#7 f3 opOp rd rs1 rs2) = f3 ∧
    opcodeOf (rType 0b0100000#7 f3 opOp rd rs1 rs2) = opOp :=
  ⟨(rType_or_bit30 0b0000000#7 f3 opOp rd rs1 rs2).symm, funct7Of_wordOf_append .., funct3Of_wordOf ..,
    Laws.MajorOpcode.opcodeOf_wordOf ..⟩

/-- Settles O17: the two function codes differ in the bit of funct7 that stands in bit 30. -/
theorem negatedLogicEncoding : Obligations.NegatedLogicEncoding := by
  intro x rd rs1 rs2
  obtain ⟨handn, handn7, handn3, handnOp⟩ := rType_negated 0b111#3 rd rs1 rs2
  obtain ⟨horn, horn7, horn3, hornOp⟩ := rType_negated 0b110#3 rd rs1 rs2
  obtain ⟨hxnor, hxnor7, hxnor3, hxnorOp⟩ := rType_negated 0b100#3 rd rs1 rs2
  exact ⟨handn, horn, hxnor, handn7, handn3, horn7, horn3, hxnor7, hxnor3, handnOp, hornOp, hxnorOp⟩

open Sys2Proof.Machine in
/-- Settles O7: every instruction has one of two endings, and that of an RV64-only one stands behind the guard. -/
theorem rv64OnlyStopsOnRv32 : Obligations.Rv64OnlyStopsOnRv32 := by
  intro i s hi hx
  obtain ⟨v, hv⟩ := exec_eq_ending i s
  rw [hv, State.ending, if_pos hi, State.onRv64_rv32 hx]

end Sys2Proof
end

section
/-!
SUPPORT. The decoder of the companion instructions (49_base_isa_companion.md section 3), one equation per format, and
which words of the four opcodes of the table are no companion instruction.
-/
namespace Sys2Proof.Machine

/-! ## The formats -/

/-- Only a word of the opcode of ret is ret. -/
theorem ne_ret_of_opcode {w : InstrWord} (hop : opcodeOf w ≠ 0b1100111#7) : w ≠ 0x00008067#32 := by
  rintro rfl
  exact hop rfl

theorem Companion.decodeRow_lui {w : InstrWord} (hop : opcodeOf w = 0b0110111#7) :
    Companion.decodeRow w = some (.lui (rdOf w) (w.extractLsb' 12 20)) := by
  have hret : w ≠ 0x00008067#32 := ne_ret_of_opcode (by rw [hop]; decide)
  simp [Companion.decodeRow, hret, hop]

section
variable {w : InstrWord} (hret : w ≠ 0x00008067#32) (hlui : opcodeOf w ≠ 0b0110111#7)
include hret hlui

theorem Companion.decodeRow_R {mk : Reg → Reg → Reg → Companion}
    (h : companionRRows.lookup (opcodeOf w ++ funct7Of w ++ funct3Of w) = some mk) :
    Companion.decodeRow w = some (mk (rdOf w) (rs1Of w) (rs2Of w)) := by
  simp [Companion.decodeRow, hret, hlui, h]

variable (hR : companionRRows.lookup (opcodeOf w ++ funct7Of w ++ funct3Of w) = none)
include hR

theorem Companion.decodeRow_shamtw {mk : Reg → Reg → BitVec 5 → Companion}
    (h : companionShamtwRows.lookup (opcodeOf w ++ funct7Of w ++ funct3Of w) = some mk) :
    Companion.decodeRow w = some (mk (rdOf w) (rs1Of w) (imm5Of w)) := by
  simp [Companion.decodeRow, hret, hlui, hR, h]

variable (hshamtw : companionShamtwRows.lookup (opcodeOf w ++ funct7Of w ++ funct3Of w) = none)
include hshamtw

theorem Companion.decodeRow_I {mk : Reg → Reg → BitVec 12 → Companion}
    (h : companionIRows.lookup (opcodeOf w ++ funct3Of w) = some mk) :
    Companion.decodeRow w = some (mk (rdOf w) (rs1Of w) (funct12Of w)) := by
  simp [Companion.decodeRow, hret, hlui, hR, hshamtw, h]

variable (hI : companionIRows.lookup (opcodeOf w ++ funct3Of w) = none)
include hI

theorem Companion.decodeRow_S {mk : Reg → Reg → BitVec 12 → Companion}
    (h : companionSRows.lookup (opcodeOf w ++ funct3Of w) = some mk) :
    Companion.decodeRow w = some (mk (rs1Of w) (rs2Of w) (storeImm w)) := by
  simp [Companion.decodeRow, hret, hlui, hR, hshamtw, hI, h]

theorem Companion.decodeRow_B (hS : companionSRows.lookup (opcodeOf w ++ funct3Of w) = none) : Companion.decodeRow w =
    (companionBRows.lookup (opcodeOf w ++ funct3Of w)).map fun mk => mk (rs1Of w) (rs2Of w) (branchOffset w) := by
  simp [Companion.decodeRow, hret, hlui, hR, hshamtw, hI, hS]

end

/-! ## Keys that no row has -/

/-- A key that differs from the key of every row in some view of the keys is not found. -/
theorem lookup_eq_none_of_view {n : Nat} {α β : Type} (view : BitVec n → β) {v : β} {rows : List (BitVec n × α)}
    (hrows : ∀ row ∈ rows, v ≠ view row.1) {k : BitVec n} (hk : view k = v) : rows.lookup k = none :=
  List.lookup_eq_none_iff.mpr fun row hrow => bne_iff_ne.mpr fun h => hrows row hrow (hk.symm.trans (congrArg view h))

/-- The opcode and funct3 in a key of opcode, funct7 and funct3. -/
def opFunct3Of (key : BitVec 17) : BitVec 7 × BitVec 3 := (key.extractLsb' 10 7, key.extractLsb' 0 3)

theorem opFunct3Of_append (op f7 : BitVec 7) (f3 : BitVec 3) : opFunct3Of (op ++ f7 ++ f3) = (op, f3) := by
  rw [opFunct3Of, BitVec.extractLsb'_append_eq_right, BitVec.extractLsb'_append_eq_of_le (by decide)]
  exact congrArg (·, f3) BitVec.extractLsb'_append_eq_left

/-- Whether no companion row of this opcode and funct3 has a funct7. -/
def funct7Unused (op : BitVec 7) (f3 : BitVec 3) : Bool :=
  (∀ row ∈ companionRRows, (op, f3) ≠ opFunct3Of row.1) ∧ ∀ row ∈ companionShamtwRows, (op, f3) ≠ opFunct3Of row.1

section
variable {op : BitVec 7} {f3 : BitVec 3} (h : funct7Unused op f3 = true) (f7 : BitVec 7)
include h

theorem companionRRows_lookup_of_unused : companionRRows.lookup (op ++ f7 ++ f3) = none :=
  lookup_eq_none_of_view opFunct3Of (of_decide_eq_true h).1 (opFunct3Of_append ..)

theorem companionShamtwRows_lookup_of_unused : companionShamtwRows.lookup (op ++ f7 ++ f3) = none :=
  lookup_eq_none_of_view opFunct3Of (of_decide_eq_true h).2 (opFunct3Of_append ..)

end

/-! ## Words of the table's opcodes that are no companion instruction -/

/-- Whether the lists of companion rows that share opcodes with the table have no row of these function bits. -/
def Companion.free (op f7 : BitVec 7) (f3 : BitVec 3) : Bool :=
  (companionRRows.lookup (op ++ f7 ++ f3)).isNone && (companionShamtwRows.lookup (op ++ f7 ++ f3)).isNone &&
    (companionIRows.lookup (op ++ f3)).isNone

theorem Companion.free_iff {op f7 : BitVec 7} {f3 : BitVec 3} : Companion.free op f7 f3 = true ↔
    companionRRows.lookup (op ++ f7 ++ f3) = none ∧ companionShamtwRows.lookup (op ++ f7 ++ f3) = none ∧
      companionIRows.lookup (op ++ f3) = none := by
  simp only [Companion.free, Bool.and_eq_true, Option.isNone_iff_eq_none, and_assoc]

theorem Companion.free_of_unused {op : BitVec 7} {f3 : BitVec 3} (h : funct7Unused op f3 = true)
    (hI : (companionIRows.lookup (op ++ f3)).isNone = true) (f7 : BitVec 7) : Companion.free op f7 f3 = true :=
  Companion.free_iff.mpr
    ⟨companionRRows_lookup_of_unused h f7, companionShamtwRows_lookup_of_unused h f7, Option.isNone_iff_eq_none.mp hI⟩

/-- No companion row has bit 26 or bit 27 set; bit 26 marks a ternary word of the table (30_encoding.md R82). -/
theorem Companion.free_of_bit {op f7 : BitVec 7} {f3 : BitVec 3} {k : Nat} (hk : k = 1 ∨ k = 2)
    (hbit : f7.getLsbD k = true) (hI : (companionIRows.lookup (op ++ f3)).isNone = true) :
    Companion.free op f7 f3 = true := by
  have hview : (op ++ f7 ++ f3).getLsbD (3 + k) = true := by
    rw [BitVec.getLsbD_append, if_neg (by omega), Nat.add_sub_cancel_left, BitVec.getLsbD_append, if_pos (by omega)]
    exact hbit
  have hrows : (∀ row ∈ companionRRows, true ≠ row.1.getLsbD (3 + k)) ∧
      ∀ row ∈ companionShamtwRows, true ≠ row.1.getLsbD (3 + k) := by
    rcases hk with rfl | rfl <;> decide
  exact Companion.free_iff.mpr ⟨lookup_eq_none_of_view (BitVec.getLsbD · (3 + k)) hrows.1 hview,
    lookup_eq_none_of_view (BitVec.getLsbD · (3 + k)) hrows.2 hview, Option.isNone_iff_eq_none.mp hI⟩

/-- The opcodes of the table are not those of ret and lui, nor of a store or branch row. -/
theorem opcode_disjoint : ∀ op ∈ [opOp, opImm, op32, opImm32], op ≠ 0b1100111#7 ∧ op ≠ 0b0110111#7 ∧
    (∀ row ∈ companionSRows, op ≠ row.1.extractLsb' 3 7) ∧ ∀ row ∈ companionBRows, op ≠ row.1.extractLsb' 3 7 := by
  decide

/-- A word of an opcode of the table whose function bits no companion row has is no companion instruction. -/
theorem Companion.decodeRow_of_free {w : InstrWord} (hop : opcodeOf w ∈ [opOp, opImm, op32, opImm32])
    (h : Companion.free (opcodeOf w) (funct7Of w) (funct3Of w) = true) : Companion.decodeRow w = none := by
  obtain ⟨hR, hshamtw, hI⟩ := Companion.free_iff.mp h
  obtain ⟨hret, hlui, hS, hB⟩ := opcode_disjoint _ hop
  have hkey : (opcodeOf w ++ funct3Of w).extractLsb' 3 7 = opcodeOf w := BitVec.extractLsb'_append_eq_left
  rw [Companion.decodeRow_B (ne_ret_of_opcode hret) hlui hR hshamtw hI (lookup_eq_none_of_view _ hS hkey),
    lookup_eq_none_of_view _ hB hkey]
  rfl

end Sys2Proof.Machine
end

section
/-!
SUPPORT. The word of every companion instruction is read as it, and no word of the table is a companion instruction.
-/
namespace Sys2Proof.Machine

open Sys2Proof.Laws.MajorOpcode (opcodeOf_wordOf)

/-! ## The words of the table -/

section
variable {op : BitVec 7} (hop : op ∈ [opOp, opImm, op32, opImm32]) {f7 : BitVec 7} {f3 : BitVec 3}
include hop

theorem Companion.decodeRow_wordOf {top : BitVec 12} (h : Companion.free op (top.extractLsb' 5 7) f3 = true)
    (rs1 rd : Reg) : Companion.decodeRow (wordOf top rs1 f3 rd op) = none := by
  refine Companion.decodeRow_of_free ?_ ?_
  · rwa [opcodeOf_wordOf]
  · rwa [opcodeOf_wordOf, funct7Of_eq, funct12Of_wordOf, funct3Of_wordOf]

theorem Companion.decodeRow_wordOf_append (h : Companion.free op f7 f3 = true) (lo : BitVec 5) (rs1 rd : Reg) :
    Companion.decodeRow (wordOf (f7 ++ lo) rs1 f3 rd op) = none :=
  Companion.decodeRow_wordOf hop (h ▸ congrArg (Companion.free op · f3) BitVec.extractLsb'_append_eq_left) rs1 rd

end

/-- No companion instruction has a word of the table: where the two share an opcode they differ in funct7 or funct3. -/
theorem Companion.decodeRow_encode_instr (x : Xlen) (i : Instr) : Companion.decodeRow (Sys2Proof.encode x i) = none := by
  cases i with
  | andn | orn | xnor | pack | packu | packh | min | minu | max | maxu | bset | bclr | binv | bextZbs | slo | sro | rol
  | ror | grev | gorc | shfl | unshfl | xpermN | xpermB | xpermH | xpermW | bfp | bextZbe | bdep | clmul | clmulh | clmulr
  | bmatxor | bmator | sh1add | sh2add | sh3add | and | or | xor | sll | srl | sra
  | packw | packuw | bsetw | bclrw | binvw | bextwZbs | slow | srow | rolw | rorw | grevw | gorcw | shflw | unshflw | bfpw
  | bextwZbe | bdepw | sh1addUw | sh2addUw | sh3addUw | addUw
  | bsetiw | bclriw | binviw | sloiw | sroiw | roriw | greviw | gorciw =>
    exact Companion.decodeRow_wordOf_append (by decide) rfl _ _ _
  | cmix | cmov | fsl | fsr | fslw | fsrw | fsriw =>
    exact Companion.decodeRow_wordOf_append (by decide) (Companion.free_of_bit (.inl rfl) BitVec.getLsbD_append rfl) _ _ _
  | bseti | bclri | binvi | bexti | sloi | sroi | rori | grevi | gorci | slli | srli | srai | rev8 | orcB
  | shfli | unshfli | unzip8 | unzip16
  | clz | ctz | cpop | sextB | sextH | crc32B | crc32H | crc32W | crc32D | crc32cB | crc32cH | crc32cW | crc32cD
  | bmatflip | fsri => exact Companion.decodeRow_wordOf (by decide) (Companion.free_of_unused rfl rfl _) _ _
  | clzw | ctzw | cpopw => exact Companion.decodeRow_wordOf (by decide) rfl _ _
  | slliUw rd rs1 imm =>
    have hbit : ((0b000010#6 ++ imm).extractLsb' 5 7).getLsbD 2 = true := by
      rw [BitVec.getLsbD_extractLsb', BitVec.getLsbD_append]
      rfl
    exact Companion.decodeRow_wordOf (by decide) (Companion.free_of_bit (.inr rfl) hbit rfl) _ _
  | zextH => cases x <;> exact Companion.decodeRow_wordOf (by decide) rfl _ _

/-! ## The words of the companion instructions -/

/-- The register whose number is these five bits. -/
def regOf (b : BitVec 5) : Reg := ⟨b.toNat, b.isLt⟩

theorem regBits_regOf (b : BitVec 5) : regBits (regOf b) = b := (BitVec.ofNat_toNat 5 b).trans (BitVec.setWidth_eq b)

/-- A store word is an R-type word whose rd field holds the low immediate bits. -/
theorem storeWord_eq (f3 : BitVec 3) (rs1 rs2 : Reg) (imm : BitVec 12) : storeWord f3 rs1 rs2 imm =
    rType (imm.extractLsb' 5 7) f3 0b0100011#7 (regOf (imm.extractLsb' 0 5)) rs1 rs2 := by
  rw [storeWord, rType, wordOf, regBits_regOf]

/-- A branch word is an R-type word whose rd field holds the lowest offset bits and bit 10. -/
theorem branchWord_eq (f3 : BitVec 3) (rs1 rs2 : Reg) (offset : BitVec 12) : branchWord f3 rs1 rs2 offset =
    rType (offset.extractLsb' 11 1 ++ offset.extractLsb' 4 6) f3 0b1100011#7
      (regOf (offset.extractLsb' 0 4 ++ offset.extractLsb' 10 1)) rs1 rs2 := by
  rw [branchWord, rType, wordOf, regBits_regOf]
  exact congrArg (· ++ 0b1100011#7) (BitVec.append_assoc' ..).symm

section
variable (hi : BitVec 7) (f3 : BitVec 3) (op : BitVec 7) (lo : BitVec 5) (rs1 rs2 : Reg)

theorem rdBits_rType : (rType hi f3 op (regOf lo) rs1 rs2).extractLsb' 7 5 = lo := by
  rw [← regBits_regField, ← rdOf, rType, rdOf_wordOf, regBits_regOf]

theorem storeImm_rType : storeImm (rType hi f3 op (regOf lo) rs1 rs2) = hi ++ lo := by
  rw [storeImm, ← funct7Of, rdBits_rType, rType, funct7Of_wordOf_append]

/-- The four parts of a branch offset, taken from the funct7 and rd fields. -/
theorem branchOffset_rType : branchOffset (rType hi f3 op (regOf lo) rs1 rs2) =
    hi.extractLsb' 6 1 ++ lo.extractLsb' 0 1 ++ hi.extractLsb' 0 6 ++ lo.extractLsb' 1 4 := by
  have hhi : (rType hi f3 op (regOf lo) rs1 rs2).extractLsb' 25 7 = hi := funct7Of_wordOf_append ..
  rw [branchOffset, ← extractLsb'_extractLsb' _ 25 7 6 1 (by decide), ← extractLsb'_extractLsb' _ 7 5 0 1 (by decide),
    ← extractLsb'_extractLsb' _ 25 7 0 6 (by decide), ← extractLsb'_extractLsb' _ 7 5 1 4 (by decide), hhi, rdBits_rType]

end

theorem storeImm_storeWord (f3 : BitVec 3) (rs1 rs2 : Reg) (imm : BitVec 12) :
    storeImm (storeWord f3 rs1 rs2 imm) = imm := by
  rw [storeWord_eq, storeImm_rType]
  exact (BitVec.extractLsb'_append_extractLsb'_eq_extractLsb' rfl).trans BitVec.extractLsb'_eq_self

theorem branchOffset_branchWord (f3 : BitVec 3) (rs1 rs2 : Reg) (offset : BitVec 12) :
    branchOffset (branchWord f3 rs1 rs2 offset) = offset := by
  have htop : offset.extractLsb' 11 1 ++ offset.extractLsb' 10 1 = offset.extractLsb' 10 2 :=
    BitVec.extractLsb'_append_extractLsb'_eq_extractLsb' rfl
  have hupper : offset.extractLsb' 10 2 ++ offset.extractLsb' 4 6 = offset.extractLsb' 4 8 :=
    BitVec.extractLsb'_append_extractLsb'_eq_extractLsb' rfl
  rw [branchWord_eq, branchOffset_rType, BitVec.extractLsb'_append_eq_left, BitVec.extractLsb'_append_eq_right,
    BitVec.extractLsb'_append_eq_right, BitVec.extractLsb'_append_eq_left, htop, hupper]
  exact (BitVec.extractLsb'_append_extractLsb'_eq_extractLsb' rfl).trans BitVec.extractLsb'_eq_self

section
variable {op : BitVec 7} (hop : op ≠ 0b1100111#7 ∧ op ≠ 0b0110111#7) {f7 : BitVec 7} {f3 : BitVec 3} (rd rs1 rs2 : Reg)
include hop

theorem Companion.decodeRow_rType {mk : Reg → Reg → Reg → Companion}
    (h : companionRRows.lookup (op ++ f7 ++ f3) = some mk) :
    Companion.decodeRow (rType f7 f3 op rd rs1 rs2) = some (mk rd rs1 rs2) := by
  rw [rType, Companion.decodeRow_R (mk := mk)] <;> simp [opcodeOf_wordOf, ne_ret_of_opcode, hop, h]

theorem Companion.decodeRow_shamtwType {mk : Reg → Reg → BitVec 5 → Companion}
    (hR : companionRRows.lookup (op ++ f7 ++ f3) = none) (h : companionShamtwRows.lookup (op ++ f7 ++ f3) = some mk)
    (imm : BitVec 5) : Companion.decodeRow (shamtwType f7 f3 op rd rs1 imm) = some (mk rd rs1 imm) := by
  rw [shamtwType, Companion.decodeRow_shamtw (mk := mk)] <;> simp [opcodeOf_wordOf, ne_ret_of_opcode, hop, hR, h]

variable (hunused : funct7Unused op f3 = true)
include hunused

theorem Companion.decodeRow_iType {mk : Reg → Reg → BitVec 12 → Companion}
    (h : companionIRows.lookup (op ++ f3) = some mk) (imm : BitVec 12) :
    Companion.decodeRow (wordOf imm rs1 f3 rd op) = some (mk rd rs1 imm) := by
  rw [Companion.decodeRow_I (mk := mk)] <;>
    simp [opcodeOf_wordOf, ne_ret_of_opcode, hop, companionRRows_lookup_of_unused hunused,
      companionShamtwRows_lookup_of_unused hunused, h]

end

section
variable {f3 : BitVec 3} {mk : Reg → Reg → BitVec 12 → Companion} (rs1 rs2 : Reg)

theorem Companion.decodeRow_storeWord (hunused : funct7Unused 0b0100011#7 f3 = true)
    (hI : companionIRows.lookup (0b0100011#7 ++ f3) = none) (h : companionSRows.lookup (0b0100011#7 ++ f3) = some mk)
    (imm : BitVec 12) : Companion.decodeRow (storeWord f3 rs1 rs2 imm) = some (mk rs1 rs2 imm) := by
  have himm := storeImm_storeWord f3 rs1 rs2 imm
  rw [storeWord_eq, rType] at himm ⊢
  rw [Companion.decodeRow_S (mk := mk)] <;>
    simp [opcodeOf_wordOf, ne_ret_of_opcode, companionRRows_lookup_of_unused hunused,
      companionShamtwRows_lookup_of_unused hunused, hI, h, himm]

theorem Companion.decodeRow_branchWord (hunused : funct7Unused 0b1100011#7 f3 = true)
    (hI : companionIRows.lookup (0b1100011#7 ++ f3) = none) (hS : companionSRows.lookup (0b1100011#7 ++ f3) = none)
    (h : companionBRows.lookup (0b1100011#7 ++ f3) = some mk) (offset : BitVec 12) :
    Companion.decodeRow (branchWord f3 rs1 rs2 offset) = some (mk rs1 rs2 offset) := by
  have hoffset := branchOffset_branchWord f3 rs1 rs2 offset
  rw [branchWord_eq, rType] at hoffset ⊢
  rw [Companion.decodeRow_B] <;>
    simp [opcodeOf_wordOf, ne_ret_of_opcode, companionRRows_lookup_of_unused hunused,
      companionShamtwRows_lookup_of_unused hunused, hI, hS, h, hoffset]

end

theorem Companion.decodeRow_luiWord (rd : Reg) (imm20 : BitVec 20) :
    Companion.decodeRow (Companion.lui rd imm20).encode = some (.lui rd imm20) := by
  have hop : opcodeOf (Companion.lui rd imm20).encode = 0b0110111#7 := BitVec.extractLsb'_append_eq_right
  have hrd : rdOf (Companion.lui rd imm20).encode = rd := by
    apply regField_of_extract
    rw [Companion.encode, BitVec.extractLsb'_append_eq_of_le (by decide)]
    exact BitVec.extractLsb'_append_eq_right
  have himm : (Companion.lui rd imm20).encode.extractLsb' 12 20 = imm20 := by
    rw [Companion.encode, BitVec.extractLsb'_append_eq_of_le (by decide), BitVec.extractLsb'_append_eq_of_le (by decide)]
    exact BitVec.extractLsb'_eq_self
  rw [Companion.decodeRow_lui hop, hrd, himm]

/-- The word of a companion instruction is read as it. -/
theorem Companion.decodeRow_encode (c : Companion) : Companion.decodeRow c.encode = some c := by
  cases c with
  | add | sub | slt | sltu | mul | mulh | addw | subw | sllw | srlw | sraw =>
    exact Companion.decodeRow_rType (by decide) _ _ _ rfl
  | slliw | srliw | sraiw => exact Companion.decodeRow_shamtwType (by decide) _ _ rfl rfl _
  | addi | slti | sltiu | xori | ori | andi | addiw | lb | lh | lw | ld | lbu | lhu | lwu | fence | fenceI =>
    exact Companion.decodeRow_iType (by decide) _ _ rfl rfl _
  | sb | sh | sw | sd => exact Companion.decodeRow_storeWord _ _ rfl rfl rfl _
  | beq | bne | blt | bge | bltu => exact Companion.decodeRow_branchWord _ _ rfl rfl rfl rfl _
  | lui rd imm20 => exact Companion.decodeRow_luiWord rd imm20
  | ret => rfl

end Sys2Proof.Machine
end

section
/-!
SUPPORT. Words that are no instruction: how the checks of RV32 refuse a row, and how the lists of rows miss a word.
-/
namespace Sys2Proof

open Sys2Proof.Machine
open Sys2Proof.Laws.MajorOpcode (opcodeOf_wordOf)

/-! ## The RV64-only rows -/

/-- A word put together with one of these opcodes has one of them. -/
theorem opcodeOf_mem {w : InstrWord} {ops : List (BitVec 7)}
    (h : ∃ top rs1 f3 rd op, w = wordOf top rs1 f3 rd op ∧ op ∈ ops) : opcodeOf w ∈ ops := by
  obtain ⟨top, rs1, f3, rd, op, rfl, hop⟩ := h
  rwa [opcodeOf_wordOf]

/-- The instructions of RV32 have words of OP and OP-IMM only (30_encoding.md R61, R85). -/
theorem opcodeOf_encode_rv32 {i : Instr} (h : i.rv64Only = false) : opcodeOf (encode .rv32 i) ∈ [opOp, opImm] := by
  cases i with
  | clzw | ctzw | cpopw | packw | packuw | bsetw | bclrw | binvw | bextwZbs | bsetiw | bclriw | binviw | slow | srow
  | sloiw | sroiw | rolw | rorw | roriw | grevw | greviw | gorcw | gorciw | shflw | unshflw | bfpw | bextwZbe | bdepw
  | fslw | fsrw | fsriw | sh1addUw | sh2addUw | sh3addUw | addUw | slliUw => cases h
  | _ => exact opcodeOf_mem ⟨_, _, _, _, _, rfl, by decide⟩

/-- The wide form of an RV64-only instruction fails a check of RV32: of unzip8 and unzip16 it is the immediate (R72). -/
theorem wide_refused_rv32 {i : Instr} (h : i.rv64Only = true) (hwidth : (i.wide .rv64).widthOk .rv32 = true) :
    (i.wide .rv64).immFits .rv32 = false := by
  cases i with
  | unzip8 | unzip16 => rfl
  | zextH | rev8 | orcB => cases h
  | _ => simp_all [Instr.wide, Instr.widthOk]

/-- A row of this key builds RV64-only companion instructions, if its opcode is OP-32 or OP-IMM-32. -/
def NeedsRv64 {α : Type} (op : BitVec 7) (mk : Reg → Reg → α → Companion) : Prop :=
  op ∈ [op32, opImm32] → ∀ r r' a, (mk r r' a).rv64Only = true

theorem companionRRows_needsRv64 : ∀ row ∈ companionRRows, NeedsRv64 (opFunct3Of row.1).1 row.2 := by
  intro row h
  fin_cases h <;> simp [NeedsRv64, opFunct3Of, Companion.rv64Only, opOp, op32, opImm32]

theorem companionShamtwRows_needsRv64 : ∀ row ∈ companionShamtwRows, NeedsRv64 (opFunct3Of row.1).1 row.2 := by
  intro row h
  fin_cases h <;> simp [NeedsRv64, Companion.rv64Only]

theorem companionIRows_needsRv64 : ∀ row ∈ companionIRows, NeedsRv64 (row.1.extractLsb' 3 7) row.2 := by
  intro row h
  fin_cases h <;> simp [NeedsRv64, Companion.rv64Only, op32, opImm, opImm32]

/-- The companion instructions of OP-32 and OP-IMM-32 are RV64-only (30_encoding.md R61). -/
theorem Machine.Companion.rv64Only_of_decodeRow {w : InstrWord} (hop : opcodeOf w ∈ [op32, opImm32]) {c : Companion}
    (h : Companion.decodeRow w = some c) : c.rv64Only = true := by
  have htable : opcodeOf w ∈ [opOp, opImm, op32, opImm32] := .tail _ (.tail _ hop)
  obtain ⟨hret, hlui, -⟩ := opcode_disjoint _ htable
  cases hR : companionRRows.lookup (opcodeOf w ++ funct7Of w ++ funct3Of w) with
  | some mk =>
    obtain rfl := Option.some.inj ((Companion.decodeRow_R (ne_ret_of_opcode hret) hlui hR).symm.trans h)
    have hmk := of_lookup (P := fun key => NeedsRv64 (opFunct3Of key).1) companionRRows_needsRv64 hR
    rw [opFunct3Of_append] at hmk
    exact hmk hop ..
  | none =>
    cases hshamtw : companionShamtwRows.lookup (opcodeOf w ++ funct7Of w ++ funct3Of w) with
    | some mk =>
      obtain rfl := Option.some.inj ((Companion.decodeRow_shamtw (ne_ret_of_opcode hret) hlui hR hshamtw).symm.trans h)
      have hmk := of_lookup (P := fun key => NeedsRv64 (opFunct3Of key).1) companionShamtwRows_needsRv64 hshamtw
      rw [opFunct3Of_append] at hmk
      exact hmk hop ..
    | none =>
      cases hI : companionIRows.lookup (opcodeOf w ++ funct3Of w) with
      | some mk =>
        obtain rfl := Option.some.inj ((Companion.decodeRow_I (ne_ret_of_opcode hret) hlui hR hshamtw hI).symm.trans h)
        exact of_lookup_append (P := fun op _ => NeedsRv64 op) companionIRows_needsRv64 hI hop ..
      | none =>
        rw [Companion.decodeRow_of_free htable (Companion.free_iff.mpr ⟨hR, hshamtw, hI⟩)] at h
        cases h

/-- A word of OP-32 or OP-IMM-32 is no instruction of RV32 (R85). -/
theorem illegalWord_rv32_of_opcode {e : Exts} {w : InstrWord} (hop : opcodeOf w ∈ [op32, opImm32]) :
    IllegalWord .rv32 e w := by
  constructor
  · intro i h
    obtain ⟨j, hrow, hwidth, -⟩ := decode_eq_ok_iff.mp h
    have hnarrow : opcodeOf (encode .rv32 j) ∈ [opOp, opImm] :=
      opcodeOf_encode_rv32 (by simpa [Instr.widthOk] using hwidth)
    rw [encode_of_decodeRow hrow] at hnarrow
    have hdisjoint : ∀ op ∈ [op32, opImm32], op ∉ [opOp, opImm] := by decide
    exact hdisjoint _ hop hnarrow
  · unfold Companion.decode
    cases hrow : Companion.decodeRow w with
    | none => rfl
    | some c => simp [Companion.rv64Only_of_decodeRow hop hrow]

/-- Nor is the word of an RV64-only row (R85). -/
theorem illegalWord_rv32_of_rv64Only {e : Exts} {i : Instr} (h : i.rv64Only = true) :
    IllegalWord .rv32 e (encode .rv64 i) := by
  constructor
  · intro k hk
    obtain ⟨j, hrow, hwidth, himm, -⟩ := decode_eq_ok_iff.mp hk
    obtain rfl := Option.some.inj ((decodeRow_encode .rv64 i).symm.trans hrow)
    rw [wide_refused_rv32 h hwidth] at himm
    cases himm
  · simp [Companion.decode, Companion.decodeRow_encode_instr]

/-! ## OP-IMM words with bit 25 or 24 out of range on RV32 -/

/-- The shift-type immediates of OP-IMM have five bits on RV32 (R71). -/
theorem opImmShamtRows_immFits : ∀ row ∈ opImmShamtRows, ∀ rd rs1 imm,
    (row.2 rd rs1 imm).immFits .rv32 = imm.ult 32#6 := by
  intro row h
  fin_cases h <;> exact fun _ _ _ => rfl

theorem bit5_of_ult : ∀ imm : BitVec 6, imm.ult 32#6 = true → imm.getLsbD 5 = false := by decide

/-- The immediates of shfli and unshfli have four bits on RV32 (R72). -/
theorem bit4_of_ult : ∀ imm : BitVec 5, imm.ult 16#5 = true → imm.getLsbD 4 = false := by decide

theorem not_decode_of_bit25 {e : Exts} {w : InstrWord} (hop : opcodeOf w = opImm) (h26 : w.getLsbD 26 = false)
    (h25 : w.getLsbD 25 = true) (i : Instr) : decode .rv32 e w ≠ .ok i := by
  intro h
  obtain ⟨j, hrow, -, himm, -⟩ := decode_eq_ok_iff.mp h
  cases h6 : opImmShamtRows.lookup (funct6Of w ++ funct3Of w) with
  | some mk =>
    obtain rfl := Option.some.inj ((decodeRow_opImm_shamt hop h26 h6).symm.trans hrow)
    have hfits := of_lookup (P := fun _ mk => ∀ rd rs1 imm, (mk rd rs1 imm).immFits .rv32 = imm.ult 32#6)
      opImmShamtRows_immFits h6
    have hbit := bit5_of_ult _ ((hfits ..).symm.trans himm)
    rw [imm6Of, BitVec.getLsbD_extractLsb'] at hbit
    exact Bool.false_ne_true (hbit.symm.trans h25)
  | none =>
    have h7 : opImmShflRows.lookup (funct7Of w ++ funct3Of w) = none :=
      lookup_eq_none_of_view (BitVec.getLsbD · 3) (by decide : ∀ row ∈ opImmShflRows, true ≠ row.1.getLsbD 3) <| by
        rw [BitVec.getLsbD_append, funct7Of, BitVec.getLsbD_extractLsb']
        exact h25
    have h12 : opImmUnaryRows.lookup (funct12Of w ++ funct3Of w) = none :=
      lookup_eq_none_of_view (BitVec.getLsbD · 8) (by decide : ∀ row ∈ opImmUnaryRows, true ≠ row.1.getLsbD 8) <| by
        rw [BitVec.getLsbD_append, funct12Of, BitVec.getLsbD_extractLsb']
        exact h25
    rw [decodeRow_opImm_unary hop h26 h6 h7, h12] at hrow
    cases hrow

theorem not_decode_of_bit24 {e : Exts} {w : InstrWord} (hop : opcodeOf w = opImm) (h7 : funct7Of w = 0b0000100#7)
    (h3 : funct3Of w = 0b001#3 ∨ funct3Of w = 0b101#3) (h24 : w.getLsbD 24 = true) (i : Instr) :
    decode .rv32 e w ≠ .ok i := by
  intro h
  obtain ⟨j, hrow, -, himm, -⟩ := decode_eq_ok_iff.mp h
  have ht : ternaryBit w = false := by rw [ternaryBit_eq, h7]; rfl
  have h6 : opImmShamtRows.lookup (funct6Of w ++ funct3Of w) = none := by
    rw [funct6Of_eq, h7]
    rcases h3 with h3 | h3 <;> rw [h3] <;> rfl
  obtain ⟨mk, hmk, hfits⟩ : ∃ mk, opImmShflRows.lookup (funct7Of w ++ funct3Of w) = some mk ∧
      ∀ rd rs1 imm, (mk rd rs1 imm).immFits .rv32 = imm.ult 16#5 := by
    rw [h7]
    rcases h3 with h3 | h3 <;> rw [h3] <;> exact ⟨_, rfl, fun _ _ _ => rfl⟩
  obtain rfl := Option.some.inj ((decodeRow_opImm_shfl hop ht h6 hmk).symm.trans hrow)
  have hbit := bit4_of_ult _ ((hfits ..).symm.trans himm)
  rw [imm5Of, BitVec.getLsbD_extractLsb'] at hbit
  exact Bool.false_ne_true (hbit.symm.trans h24)

/-! ## Companion instructions of OP-IMM -/

theorem Machine.Companion.decode_eq_none {x : Xlen} {w : InstrWord} (h : Companion.decodeRow w = none) :
    Companion.decode x w = none := by
  rw [Companion.decode, h]

/-- No companion instruction of OP-IMM has funct3 001 or 101. -/
theorem Machine.Companion.decodeRow_opImm_shift {w : InstrWord} (hop : opcodeOf w = opImm)
    (h3 : funct3Of w = 0b001#3 ∨ funct3Of w = 0b101#3) : Companion.decodeRow w = none := by
  refine Companion.decodeRow_of_free (by rw [hop]; decide) ?_
  rw [hop]
  rcases h3 with h3 | h3 <;> rw [h3] <;> exact Companion.free_of_unused rfl rfl _

end Sys2Proof
end

section
/-!
SUPPORT. Words of the four opcodes that no row of the table and no companion row has, one lemma per shape of word.
-/
namespace Sys2Proof

open Sys2Proof.Machine

section
variable {x : Xlen} {e : Exts} {w : InstrWord}

/-- A word that neither the table nor the companion instructions have is no instruction of any machine. -/
theorem illegalWord_of_free (hop : opcodeOf w ∈ [opOp, opImm, op32, opImm32]) (hrow : decodeRow w = none)
    (hfree : Companion.free (opcodeOf w) (funct7Of w) (funct3Of w) = true) : IllegalWord x e w := by
  refine ⟨fun i h => ?_, Companion.decode_eq_none (Companion.decodeRow_of_free hop hfree)⟩
  obtain ⟨j, hj, -⟩ := decode_eq_ok_iff.mp h
  rw [hrow] at hj
  cases hj

/-! ## Ternary words (R82) -/

/-- A ternary word that is no row: bit 26 keeps it out of the companion rows that have a funct7. -/
theorem illegalWord_of_ternary (hop : opcodeOf w ∈ [opOp, opImm, op32, opImm32]) (ht : ternaryBit w = true)
    (hrow : decodeRow w = none) (hI : (companionIRows.lookup (opcodeOf w ++ funct3Of w)).isNone = true) :
    IllegalWord x e w :=
  illegalWord_of_free hop hrow (Companion.free_of_bit (.inl rfl) ((ternaryBit_eq w).symm.trans ht) hI)

/-- The ternary rows of OP and OP-32 have funct3 001 or 101. -/
theorem illegalWord_ternary_funct3 (hop : opcodeOf w = opOp ∨ opcodeOf w = op32) (ht : ternaryBit w = true)
    (h1 : funct3Of w ≠ 0b001#3) (h5 : funct3Of w ≠ 0b101#3) : IllegalWord x e w := by
  have hkey : (f2Of w ++ funct3Of w).extractLsb' 0 3 = funct3Of w := BitVec.extractLsb'_append_eq_right
  have hrows : (∀ row ∈ opTernaryRows, funct3Of w ≠ row.1.extractLsb' 0 3) ∧
      ∀ row ∈ op32TernaryRows, funct3Of w ≠ row.1.extractLsb' 0 3 := by
    generalize funct3Of w = f3 at h1 h5
    revert f3
    decide
  have hI : ∀ f3 : BitVec 3, (companionIRows.lookup (opOp ++ f3)).isNone = true ∧
      (companionIRows.lookup (op32 ++ f3)).isNone = true := by decide
  rcases hop with hop | hop
  · refine illegalWord_of_ternary (by simp [hop]) ht ?_ (hop ▸ (hI _).1)
    rw [decodeRow_opOp_ternary hop ht, lookup_eq_none_of_view _ hrows.1 hkey]
    rfl
  · refine illegalWord_of_ternary (by simp [hop]) ht ?_ (hop ▸ (hI _).2)
    rw [decodeRow_op32_ternary hop ht, lookup_eq_none_of_view _ hrows.2 hkey]
    rfl

/-- The one ternary row of OP-IMM has funct3 101, fsri. -/
theorem illegalWord_opImm_ternary (hop : opcodeOf w = opImm) (ht : ternaryBit w = true) (h3 : funct3Of w = 0b001#3) :
    IllegalWord x e w := by
  refine illegalWord_of_ternary (by simp [hop]) ht ?_ (by rw [hop, h3]; rfl)
  rw [decodeRow_opImm_ternary hop ht, h3]
  rfl

/-- The one ternary row of OP-IMM-32 has f2 10 and funct3 101, fsriw. -/
theorem decodeRow_opImm32_ternary_eq_none (hop : opcodeOf w = opImm32) (ht : ternaryBit w = true)
    (h : f2Of w ≠ 0b10#2 ∨ funct3Of w ≠ 0b101#3) : decodeRow w = none := by
  rw [decodeRow_opImm32_ternary hop ht, if_neg]
  intro hkey
  obtain ⟨h2, h3⟩ := append_inj hkey
  exact h.elim (· h2) (· h3)

theorem illegalWord_opImm32_ternary (hop : opcodeOf w = opImm32) (ht : ternaryBit w = true) {f3 : BitVec 3}
    (h3 : funct3Of w = f3) (h : f2Of w ≠ 0b10#2 ∨ funct3Of w ≠ 0b101#3)
    (hI : (companionIRows.lookup (opImm32 ++ f3)).isNone = true) : IllegalWord x e w :=
  illegalWord_of_ternary (by simp [hop]) ht (decodeRow_opImm32_ternary_eq_none hop ht h) (by rw [hop, h3]; exact hI)

/-! ## Words with funct7 and funct3 given -/

section
variable {f7 : BitVec 7} {f3 : BitVec 3} (h7 : funct7Of w = f7) (h3 : funct3Of w = f3) (ht : f7[1] = false)
include h7 h3 ht

theorem illegalWord_opOp (hop : opcodeOf w = opOp) (hrow : opRows.lookup (f7 ++ f3) = none)
    (hfree : Companion.free opOp f7 f3 = true) : IllegalWord x e w := by
  refine illegalWord_of_free (by simp [hop]) ?_ (by rwa [hop, h7, h3])
  rw [decodeRow_opOp_binary hop (by rw [ternaryBit_eq, h7, ht]), h7, h3, hrow]
  rfl

theorem illegalWord_op32 (hop : opcodeOf w = op32) (hrow : op32Rows.lookup (f7 ++ f3) = none)
    (hfree : Companion.free op32 f7 f3 = true) : IllegalWord x e w := by
  refine illegalWord_of_free (by simp [hop]) ?_ (by rwa [hop, h7, h3])
  rw [decodeRow_op32_binary hop (by rw [ternaryBit_eq, h7, ht]), h7, h3, hrow]
  rfl

theorem illegalWord_opImm (hop : opcodeOf w = opImm)
    (hshamt : opImmShamtRows.lookup (f7.extractLsb' 1 6 ++ f3) = none) (hshfl : opImmShflRows.lookup (f7 ++ f3) = none)
    (hunary : opImmUnaryRows.lookup (f7 ++ imm5Of w ++ f3) = none) (hfree : Companion.free opImm f7 f3 = true) :
    IllegalWord x e w := by
  refine illegalWord_of_free (by simp [hop]) ?_ (by rwa [hop, h7, h3])
  rw [decodeRow_opImm_unary hop (by rw [ternaryBit_eq, h7, ht]) (by rwa [funct6Of_eq, h7, h3]) (by rwa [h7, h3]),
    ← funct7Of_append_imm5Of, h7, h3, hunary]
  rfl

theorem illegalWord_opImm32 (hop : opcodeOf w = opImm32)
    (hshamt : opImm32ShamtRows.lookup (f7.extractLsb' 1 6 ++ f3) = none)
    (hshamtw : opImm32ShamtwRows.lookup (f7 ++ f3) = none)
    (hunary : opImm32UnaryRows.lookup (f7 ++ imm5Of w ++ f3) = none) (hfree : Companion.free opImm32 f7 f3 = true) :
    IllegalWord x e w := by
  refine illegalWord_of_free (by simp [hop]) ?_ (by rwa [hop, h7, h3])
  rw [decodeRow_opImm32_unary hop (by rw [ternaryBit_eq, h7, ht]) (by rwa [funct6Of_eq, h7, h3]) (by rwa [h7, h3]),
    ← funct7Of_append_imm5Of, h7, h3, hunary]
  rfl

end

end

/-! ## Unary codes (R75) -/

/-- Every unary code has funct7 0110000. -/
theorem unaryRows_lookup_of_funct7 {f7 : BitVec 7} (h : f7 ≠ 0b0110000#7) (lo : BitVec 5) (f3 : BitVec 3) :
    opImmUnaryRows.lookup (f7 ++ lo ++ f3) = none ∧ opImm32UnaryRows.lookup (f7 ++ lo ++ f3) = none := by
  have hkey : (f7 ++ lo ++ f3).extractLsb' 8 7 = f7 := by
    rw [BitVec.extractLsb'_append_eq_of_le (by decide)]
    exact BitVec.extractLsb'_append_eq_left
  have hrows : ∀ row ∈ opImmUnaryRows, row.1.extractLsb' 8 7 = 0b0110000#7 := by decide
  have hrows32 : ∀ row ∈ opImm32UnaryRows, row.1.extractLsb' 8 7 = 0b0110000#7 := by decide
  exact ⟨lookup_eq_none_of_view _ (fun row hrow heq => h (heq.trans (hrows row hrow))) hkey,
    lookup_eq_none_of_view _ (fun row hrow heq => h (heq.trans (hrows32 row hrow))) hkey⟩

/-- A code that R75 and R76 do not assign is no unary row of OP-IMM. -/
theorem opImmUnaryRows_lookup_unassigned : ∀ code : BitVec 5,
    code ∉ [0#5, 1#5, 2#5, 3#5, 4#5, 5#5, 16#5, 17#5, 18#5, 19#5, 24#5, 25#5, 26#5, 27#5] →
    (opImmUnaryRows.lookup (0b0110000#7 ++ code ++ 0b001#3)).isNone = true := by decide

/-- A code that R75 does not assign is no unary row of OP-IMM-32. -/
theorem opImm32UnaryRows_lookup_unassigned : ∀ code : BitVec 5, code ∉ [0#5, 1#5, 2#5] →
    (opImm32UnaryRows.lookup (0b0110000#7 ++ code ++ 0b001#3)).isNone = true := by decide

/-- No row of OP-IMM-32 has funct3 100 (R89). -/
theorem illegalWord_opImm32_funct3 {x : Xlen} {e : Exts} {w : InstrWord} (hop : opcodeOf w = opImm32)
    (h3 : funct3Of w = 0b100#3) : IllegalWord x e w := by
  refine illegalWord_of_free (by simp [hop]) ?_ (by rw [hop, h3]; exact Companion.free_of_unused rfl rfl _)
  cases ht : ternaryBit w with
  | true => exact decodeRow_opImm32_ternary_eq_none hop ht (.inr (by rw [h3]; decide))
  | false =>
    have hkey {n : Nat} (hi : BitVec n) : (hi ++ funct3Of w).extractLsb' 0 3 = 0b100#3 :=
      BitVec.extractLsb'_append_eq_right.trans h3
    rw [decodeRow_opImm32_unary hop ht (lookup_eq_none_of_view (BitVec.extractLsb' 0 3) (by decide) (hkey _))
      (lookup_eq_none_of_view (BitVec.extractLsb' 0 3) (by decide) (hkey _)),
      lookup_eq_none_of_view (BitVec.extractLsb' 0 3) (by decide) (hkey _)]
    rfl

end Sys2Proof
end

section
/-!
The statements of 30_encoding.md about words that the table does not have: the companion instructions and the words that
are no instruction.
-/
namespace Sys2Proof

open Sys2Proof.Machine

/-- Settles O15: the word is read as the companion instruction, and no word of the table is read as one. -/
theorem companionDecodeOfEncode : Obligations.CompanionDecodeOfEncode := by
  intro x e c
  have hrow := Companion.decodeRow_encode c
  constructor
  · intro hwidth
    have hnarrow : ¬(x = .rv32 ∧ c.rv64Only = true) := fun ⟨hx, hc⟩ => by rw [hwidth hc] at hx; cases hx
    simp [Companion.decode, hrow, hnarrow]
  · intro i h
    have hword : encode x i = c.encode := (encodeOfDecode x e _ i h).2
    rw [← hword, Companion.decodeRow_encode_instr] at hrow
    cases hrow

/-- Settles O18: a row of RV32 has the other two opcodes, and an immediate with the named bit set is too wide for RV32. -/
theorem wordsIllegalOnRv32 : Obligations.WordsIllegalOnRv32 := by
  rintro e w (hop | hop | ⟨i, hi, rfl⟩ | ⟨hop, h3, h26, h25⟩ | ⟨hop, h7, h3, h24⟩)
  · exact illegalWord_rv32_of_opcode (by simp [hop])
  · exact illegalWord_rv32_of_opcode (by simp [hop])
  · exact illegalWord_rv32_of_rv64Only hi
  · exact ⟨not_decode_of_bit25 hop h26 h25, Companion.decode_eq_none (Companion.decodeRow_opImm_shift hop h3)⟩
  · exact ⟨not_decode_of_bit24 hop h7 h3 h24, Companion.decode_eq_none (Companion.decodeRow_opImm_shift hop h3)⟩

/-- Settles O19: in every one of these words the function bits are those of no row. -/
theorem reservedEncodingsIllegal : Obligations.ReservedEncodingsIllegal := by
  rintro x e w (⟨hop | hop, h7, h3⟩ | ⟨hop | hop, ht, h3⟩ | ⟨hop, h7, h3, hcode⟩ | ⟨hop, h7, h3, hcode⟩ | ⟨hop, h7, h3⟩ |
    ⟨hop, h2, h3⟩ | ⟨hop, h7, h3⟩ | ⟨hop, h7, h3⟩ | ⟨hop, h7, h3 | h3⟩ | ⟨hop, ht, h1, h5⟩ | ⟨hop, h7, h3⟩ | ⟨hop, h3⟩ |
    ⟨hop, h7, h3⟩ | ⟨hop, h7, h3⟩)
  · exact illegalWord_opOp h7 h3 rfl hop rfl rfl
  · exact illegalWord_op32 h7 h3 rfl hop rfl rfl
  · exact illegalWord_opImm_ternary hop ht h3
  · exact illegalWord_opImm32_ternary hop ht h3 (.inr (by rw [h3]; decide)) rfl
  · exact illegalWord_opImm h7 h3 rfl hop rfl rfl
      (Option.isNone_iff_eq_none.mp (opImmUnaryRows_lookup_unassigned _ hcode)) rfl
  · exact illegalWord_opImm32 h7 h3 rfl hop rfl rfl
      (Option.isNone_iff_eq_none.mp (opImm32UnaryRows_lookup_unassigned _ hcode)) rfl
  · exact illegalWord_opImm h7 h3 rfl hop rfl rfl (unaryRows_lookup_of_funct7 (by decide) ..).1 rfl
  · have ht : ternaryBit w = true := by rw [ternaryBit_eq_f2Of, h2]; rfl
    exact illegalWord_opImm32_ternary hop ht h3 (.inl (by rw [h2]; decide)) rfl
  · exact illegalWord_opImm32 h7 h3 rfl hop rfl rfl (unaryRows_lookup_of_funct7 (by decide) ..).2 rfl
  · exact illegalWord_opImm32 h7 h3 rfl hop rfl rfl (unaryRows_lookup_of_funct7 (by decide) ..).2 rfl
  · exact illegalWord_opImm h7 h3 rfl hop rfl rfl (unaryRows_lookup_of_funct7 (by decide) ..).1 rfl
  · exact illegalWord_opImm h7 h3 rfl hop rfl rfl (unaryRows_lookup_of_funct7 (by decide) ..).1 rfl
  · exact illegalWord_ternary_funct3 hop ht h1 h5
  · exact illegalWord_op32 h7 h3 rfl hop rfl rfl
  · exact illegalWord_opImm32_funct3 hop h3
  · simp only [List.mem_cons, List.not_mem_nil, or_false] at h3
    rcases h3 with h3 | h3 | h3 | h3 <;> exact illegalWord_op32 h7 h3 rfl hop rfl rfl
  · exact illegalWord_op32 h7 h3 rfl hop rfl rfl

end Sys2Proof
end

section
/-!
SUPPORT. The rules that a statement about a result goes through: an instruction ends with the word whose bits its result has,
and a *W instruction with that word's sign extension.
-/
namespace Sys2Proof.Machine

/-! ## Bits of registers -/

/-- The bits of a register, in the spelling of the statements. -/
theorem State.getLsbD_x (s : State) (r : Reg) (k : Nat) : (s.x r).getLsbD k = s.bit r k := rfl

/-- The bits of the low word of a register (00_scope.md R8). -/
theorem State.getLsbD_xw (s : State) (r : Reg) {k : Nat} (hk : k < 32) : (s.xw r).getLsbD k = s.bit r k := by
  rw [State.xw, getLsbD_lowWord, decide_eq_true hk, Bool.true_and, State.getLsbD_x]

/-- The bits of a complement, inside the word. -/
theorem getLsbD_not_of_lt {n k : Nat} (v : BitVec n) (hk : k < n) : (~~~v).getLsbD k = !v.getLsbD k := by
  rw [BitVec.getLsbD_not, decide_eq_true hk, Bool.true_and]

/-- Both register widths are even. -/
theorem State.two_dvd_bits (s : State) : 2 ∣ s.xlen.bits := by
  cases s.xlen <;> decide

/-- A word is the one given by its bits. -/
theorem eq_bitsOf {n : Nat} {v : BitVec n} {f : Nat → Bool} (h : ∀ k < n, v.getLsbD k = f k) : v = bitsOf n f :=
  BitVec.eq_of_getLsbD_eq fun k hk => by rw [getLsbD_bitsOf, decide_eq_true hk, Bool.true_and, h k hk]

/-! ## Endings with a given result -/

section
variable {s : State} {rd : Reg} {f : Nat → Bool}

/-- An instruction ends with whatever its result is shown to be. -/
theorem State.done_of_eq {v w : s.XWord} (h : v = w) : s.done rd v = .next (s.retire rd w) :=
  State.done_eq_next.mpr (congrArg (s.retire rd) h.symm)

/-- An instruction whose result has the bits `f`. -/
theorem State.done_bitsOf {v : s.XWord} (h : ∀ k < s.xlen.bits, v.getLsbD k = f k) :
    s.done rd v = .next (s.retire rd (bitsOf _ f)) :=
  State.done_of_eq (eq_bitsOf h)

/-- A *W instruction on RV64 ends with whatever its sign-extended result is shown to be. -/
theorem State.onRv64_doneW_of_eq (hx : s.xlen = .rv64) (i : Instr) {v : BitVec 32} {w : s.XWord}
    (h : v.signExtend _ = w) : s.onRv64 i (s.doneW rd v) = .next (s.retire rd w) :=
  (State.onRv64_rv64 hx i _).trans (State.done_of_eq h)

/-- A *W instruction on RV64 whose 32-bit result has the bits `f`. -/
theorem State.onRv64_doneW_bitsOf (hx : s.xlen = .rv64) (i : Instr) {v : BitVec 32} (h : ∀ k < 32, v.getLsbD k = f k) :
    s.onRv64 i (s.doneW rd v) = .next (s.retire rd ((bitsOf 32 f).signExtend _)) :=
  State.onRv64_doneW_of_eq hx i (congrArg _ (eq_bitsOf h))

/-- A word that holds a number below 2^31 keeps it when it is sign-extended. -/
theorem signExtend_ofNat_of_lt {c : Nat} (hc : c < 2 ^ 31) (n : Nat) :
    (BitVec.ofNat 32 c).signExtend n = BitVec.ofNat n c := by
  have hnat : (BitVec.ofNat 32 c).toNat = c := by
    rw [BitVec.toNat_ofNat, Nat.mod_eq_of_lt (by omega)]
  have hmsb : (BitVec.ofNat 32 c).msb = false := BitVec.msb_eq_false_iff_two_mul_lt.mpr (by omega)
  rw [BitVec.signExtend_eq_setWidth_of_msb_false hmsb, ← BitVec.ofNat_toNat, hnat]

/-- A *W instruction on RV64 whose result is a count of bits of a word. -/
theorem State.onRv64_doneW_ofNat (hx : s.xlen = .rv64) (i : Instr) {c : Nat} (hc : c ≤ 32) :
    s.onRv64 i (s.doneW rd (BitVec.ofNat 32 c)) = .next (s.retire rd (BitVec.ofNat _ c)) :=
  State.onRv64_doneW_of_eq hx i (signExtend_ofNat_of_lt (by omega) _)

end

end Sys2Proof.Machine
end

section
/-!
SUPPORT. What each operation of 40_basic_count_logic_pack_minmax_sext.md is, in the terms of the statements.
-/
namespace Sys2Proof.Machine

/-! ## Counts (R100) -/

/-- `c` is the first of 0 .. n-1 at which `f` is true, or n if there is none. -/
structure IsFirst (n : Nat) (f : Nat → Bool) (c : Nat) : Prop where
  le : c ≤ n
  before : ∀ k < c, f k = false
  here : c < n → f c = true

/-- `f` is read below n only. -/
theorem IsFirst.congr {n c : Nat} {f g : Nat → Bool} (h : IsFirst n f c) (hfg : ∀ k < n, f k = g k) : IsFirst n g c where
  le := h.le
  before k hk := (hfg k (hk.trans_le h.le)).symm.trans (h.before k hk)
  here hc := (hfg c hc).symm.trans (h.here hc)

/-- The search that clz and ctz are defined by finds the first index. -/
theorem isFirst_find_range (n : Nat) (f : Nat → Bool) : IsFirst n f (((List.range n).find? f).getD n) := by
  cases h : (List.range n).find? f with
  | none =>
    have hnone := List.find?_range_eq_none.mp h
    exact ⟨le_rfl, fun k hk => by simpa using hnone k hk, fun hn => absurd hn (lt_irrefl n)⟩
  | some c =>
    obtain ⟨hc, hmem, hbefore⟩ := List.find?_range_eq_some.mp h
    exact ⟨(List.mem_range.mp hmem).le, fun k hk => by simpa using hbefore k hk, fun _ => hc⟩

/-- clz is the distance of the highest 1 from the top. -/
theorem isFirst_clz {n : Nat} (v : BitVec n) : IsFirst n (fun k => v.getLsbD (n - 1 - k)) (clz v) :=
  isFirst_find_range n _

/-- ctz is the position of the lowest 1. -/
theorem isFirst_ctz {n : Nat} (v : BitVec n) : IsFirst n (fun k => v.getLsbD k) (ctz v) :=
  isFirst_find_range n _

/-- `countBits n f` reads `f` below n only. -/
theorem countBits_congr {n : Nat} {f g : Nat → Bool} (h : ∀ k < n, f k = g k) : countBits n f = countBits n g := by
  induction n with
  | zero => rfl
  | succ n ih => rw [countBits, countBits, ih fun k hk => h k (by omega), h n (by omega)]

/-- Counting over the list of positions is counting position by position. -/
theorem countP_range_eq_countBits (n : Nat) (f : Nat → Bool) : (List.range n).countP f = countBits n f := by
  induction n with
  | zero => rfl
  | succ n ih =>
    rw [List.range_succ, List.countP_append, ih, List.countP_singleton, countBits]
    cases f n <;> rfl

/-- cpop counts the bits that are 1. -/
theorem cpop_eq_countBits {n : Nat} (v : BitVec n) : cpop v = countBits n v.getLsbD := countP_range_eq_countBits n _

theorem cpop_le {n : Nat} (v : BitVec n) : cpop v ≤ n :=
  List.countP_le_length.trans_eq List.length_range

/-- clz of the low word of a register, in its bits. -/
theorem isFirst_clz_xw (s : State) (r : Reg) : IsFirst 32 (fun k => s.bit r (31 - k)) (clz (s.xw r)) :=
  (isFirst_clz (s.xw r)).congr fun k _ => State.getLsbD_xw s r (k := 31 - k) (by omega)

/-- ctz of the low word of a register, in its bits. -/
theorem isFirst_ctz_xw (s : State) (r : Reg) : IsFirst 32 (s.bit r) (ctz (s.xw r)) :=
  (isFirst_ctz (s.xw r)).congr fun _ => State.getLsbD_xw s r

/-- cpop of the low word of a register, in its bits. -/
theorem cpop_xw (s : State) (r : Reg) : cpop (s.xw r) = countBits 32 (s.bit r) :=
  (cpop_eq_countBits _).trans (countBits_congr fun _ => State.getLsbD_xw s r)

/-! ## Pack (R100) -/

/-- pack puts the low half of `a` below the low half of `b`. -/
theorem getLsbD_pack {n : Nat} (hn : 2 ∣ n) (a b : BitVec n) {k : Nat} (hk : k < n) :
    (pack a b).getLsbD k = if k < n / 2 then a.getLsbD k else b.getLsbD (k - n / 2) := by
  rw [pack, getLsbD_joinHalves _ _ k hk]
  have hupper : k - n / 2 < n / 2 := by omega
  split
  next hlow => simp [hlow]
  next => simp [hupper]

/-- packu puts the high half of `a` below the high half of `b`, which stays where it is. -/
theorem getLsbD_packu {n : Nat} (hn : 2 ∣ n) (a b : BitVec n) {k : Nat} (hk : k < n) :
    (packu a b).getLsbD k = if k < n / 2 then a.getLsbD (k + n / 2) else b.getLsbD k := by
  rw [packu, getLsbD_joinHalves _ _ k hk]
  split
  next hlow => simp [hlow, Nat.add_comm]
  next hhigh =>
    have hupper : k - n / 2 < n / 2 := by omega
    have hplace : n / 2 + (k - n / 2) = k := by omega
    simp [hupper, hplace]

/-- packh puts the low byte of `a` below the low byte of `b`, and zeros above. -/
theorem getLsbD_packh {n : Nat} (a b : BitVec n) {k : Nat} (hk : k < n) :
    (packh a b).getLsbD k = if k < 8 then a.getLsbD k else if k < 16 then b.getLsbD (k - 8) else false := by
  have hbyte : k - 8 < 8 ↔ k < 16 := by omega
  simp only [packh, BitVec.getLsbD_setWidth, BitVec.getLsbD_append, hk, decide_true, Bool.true_and, hbyte]
  split
  next hlow => simp [hlow]
  next => split <;> simp [*]

/-! ## Smaller and larger (00_scope.md section 7) -/

theorem ite_lessSigned_eq_min {n : Nat} (a b : BitVec n) :
    (if lessSigned a b then a else b) = BitVec.ofInt n (min a.toInt b.toInt) := by
  rw [min_def_lt, apply_ite (BitVec.ofInt n), BitVec.ofInt_toInt, BitVec.ofInt_toInt]
  simp only [lessSigned, decide_eq_true_eq]

theorem ite_lessSigned_eq_max {n : Nat} (a b : BitVec n) :
    (if lessSigned b a then a else b) = BitVec.ofInt n (max a.toInt b.toInt) := by
  rw [max_comm, max_def_lt, apply_ite (BitVec.ofInt n), BitVec.ofInt_toInt, BitVec.ofInt_toInt]
  simp only [lessSigned, decide_eq_true_eq]

theorem ite_lessUnsigned_eq_min {n : Nat} (a b : BitVec n) :
    (if lessUnsigned a b then a else b) = BitVec.ofNat n (min a.toNat b.toNat) := by
  rw [min_def_lt, apply_ite (BitVec.ofNat n), BitVec.ofNat_toNat, BitVec.ofNat_toNat]
  simp only [lessUnsigned, decide_eq_true_eq, BitVec.setWidth_eq]

theorem ite_lessUnsigned_eq_max {n : Nat} (a b : BitVec n) :
    (if lessUnsigned b a then a else b) = BitVec.ofNat n (max a.toNat b.toNat) := by
  rw [max_comm, max_def_lt, apply_ite (BitVec.ofNat n), BitVec.ofNat_toNat, BitVec.ofNat_toNat]
  simp only [lessUnsigned, decide_eq_true_eq, BitVec.setWidth_eq]

/-! ## Sign extension (00_scope.md section 7) -/

/-- Every bit above the sign bit is that bit. -/
theorem getLsbD_sextLow_eq_min {j n : Nat} (v : BitVec n) {k : Nat} (hk : k < n) :
    (sextLow (j + 1) v).getLsbD k = v.getLsbD (min k j) := by
  rw [getLsbD_sextLow j.succ_pos v k hk]
  split
  next hlow => rw [min_eq_left (by omega)]
  next hhigh => rw [min_eq_right (by omega)]; rfl

end Sys2Proof.Machine
end

section
/-!
The statements of 40_basic_count_logic_pack_minmax_sext.md: the result of each instruction.
-/
namespace Sys2Proof.Machine.Basic

/-- Settles O22: each count is the one its operation gives, for a low word after the sign extension too, as it is at most
32. -/
theorem countBits : Obligations.CountBits := by
  intro s rd rs1
  have hclz := isFirst_clz (s.x rs1)
  have hctz := isFirst_ctz (s.x rs1)
  refine ⟨⟨_, hclz.le, rfl, hclz.before, hclz.here⟩, ⟨_, hctz.le, rfl, hctz.before, hctz.here⟩,
    State.done_of_eq (congrArg _ (cpop_eq_countBits _)), fun hx => ?_⟩
  have hclzw := isFirst_clz_xw s rs1
  have hctzw := isFirst_ctz_xw s rs1
  rw [← cpop_xw s rs1]
  exact ⟨⟨_, hclzw.le, State.onRv64_doneW_ofNat hx _ hclzw.le, hclzw.before, hclzw.here⟩,
    ⟨_, hctzw.le, State.onRv64_doneW_ofNat hx _ hctzw.le, hctzw.before, hctzw.here⟩,
    State.onRv64_doneW_ofNat hx _ (cpop_le _)⟩

/-- Settles O24: each bit stands where its operation puts it, in the words and in the low words. -/
theorem packBits : Obligations.PackBits := by
  intro s rd rs1 rs2
  have heven := s.two_dvd_bits
  refine ⟨State.done_bitsOf fun k hk => getLsbD_pack heven _ _ hk,
    State.done_bitsOf fun k hk => getLsbD_packu heven _ _ hk,
    State.done_bitsOf fun k hk => getLsbD_packh _ _ hk, fun hx =>
    ⟨State.onRv64_doneW_bitsOf hx _ fun k hk => ?packw, State.onRv64_doneW_bitsOf hx _ fun k hk => ?packuw⟩⟩
  case packw =>
    rw [getLsbD_pack (by decide) _ _ hk, State.getLsbD_xw s rs1 hk, State.getLsbD_xw s rs2 (by omega)]
  case packuw =>
    rw [getLsbD_packu (by decide) _ _ hk, State.getLsbD_xw s rs2 hk]
    exact ite_congr rfl (fun hlow => State.getLsbD_xw s rs1 (by omega)) fun _ => rfl

/-- Settles O25: the comparisons that the meanings select by are those of the numbers. -/
theorem minimumMaximum : Obligations.MinimumMaximum := fun _ _ _ _ =>
  ⟨State.done_of_eq (ite_lessSigned_eq_min _ _), State.done_of_eq (ite_lessSigned_eq_max _ _),
    State.done_of_eq (ite_lessUnsigned_eq_min _ _), State.done_of_eq (ite_lessUnsigned_eq_max _ _)⟩

/-- Settles O26: both are a sign extension, from bit 7 and from bit 15. -/
theorem signExtend : Obligations.SignExtend := fun _ _ _ =>
  ⟨State.done_bitsOf fun _ hk => getLsbD_sextLow_eq_min _ hk, State.done_bitsOf fun _ hk => getLsbD_sextLow_eq_min _ hk⟩

/-- Settles O23: each operation acts on every bit by itself. -/
theorem bitwiseLogic : Obligations.BitwiseLogic := by
  intro s rd rs1 rs2
  refine ⟨State.done_bitsOf fun k hk => ?andn, State.done_bitsOf fun k hk => ?orn, State.done_bitsOf fun k hk => ?xnor,
    State.done_bitsOf fun k hk => BitVec.getLsbD_and, State.done_bitsOf fun k hk => BitVec.getLsbD_or,
    State.done_bitsOf fun k hk => BitVec.getLsbD_xor⟩
  case andn => rw [BitVec.getLsbD_and, getLsbD_not_of_lt _ hk]; rfl
  case orn => rw [BitVec.getLsbD_or, getLsbD_not_of_lt _ hk]; rfl
  case xnor =>
    rw [BitVec.getLsbD_xor, getLsbD_not_of_lt _ hk, Bool.xor_not]
    exact Bool.not_not _

end Sys2Proof.Machine.Basic
end

section
/-!
SUPPORT. The bits of each operation of 41_single_bit_and_shift_ones.md. Each rule takes the bits of its source word as a
function, so that it serves a register and a low word of a register alike.
-/
namespace Sys2Proof.Machine

/-! ## Shift amounts (R130) -/

/-- A five-bit immediate is its own amount at 32 bits. -/
theorem shamt_32_of_imm5 (imm : BitVec 5) : shamt 32 imm = imm.toNat := Nat.mod_eq_of_lt imm.isLt

/-! ## The operations, bit by bit (R130) -/

section
variable {n m k : Nat} {a : BitVec n} {f : Nat → Bool}

/-- The word with one bit set has it at the shift amount. -/
theorem getLsbD_oneHot (b : BitVec m) (hk : k < n) : (oneHot n b).getLsbD k = (k == shamt n b) := by
  have hshamt : shamt n b < n := shamt_lt (Nat.zero_lt_of_lt hk) b
  rw [oneHot, ← BitVec.twoPow_eq, BitVec.getLsbD_twoPow, decide_eq_true hshamt, Bool.true_and, Bool.beq_comm,
    beq_eq_decide]

/-- bset makes the bit 1. -/
theorem getLsbD_bset (ha : ∀ j < n, a.getLsbD j = f j) (b : BitVec m) (hk : k < n) :
    (bset a b).getLsbD k = (k == shamt n b || f k) := by
  rw [bset, BitVec.getLsbD_or, getLsbD_oneHot b hk, ha k hk, Bool.or_comm]

/-- bclr makes the bit 0. -/
theorem getLsbD_bclr (ha : ∀ j < n, a.getLsbD j = f j) (b : BitVec m) (hk : k < n) :
    (bclr a b).getLsbD k = (k != shamt n b && f k) := by
  rw [bclr, BitVec.getLsbD_and, getLsbD_not_of_lt _ hk, getLsbD_oneHot b hk, ha k hk, Bool.and_comm]
  rfl

/-- binv inverts the bit. -/
theorem getLsbD_binv (ha : ∀ j < n, a.getLsbD j = f j) (b : BitVec m) (hk : k < n) :
    (binv a b).getLsbD k = ((k == shamt n b) != f k) := by
  rw [binv, BitVec.getLsbD_xor, getLsbD_oneHot b hk, ha k hk, Bool.xor_comm]

/-- sbext has the bit at position 0 and zeros above. -/
theorem getLsbD_sbext (ha : ∀ j < n, a.getLsbD j = f j) (b : BitVec m) (hk : k < n) :
    (sbext a b).getLsbD k = (k == 0 && f (shamt n b)) := by
  have hn : 0 < n := Nat.zero_lt_of_lt hk
  rw [sbext, BitVec.getLsbD_and, BitVec.getLsbD_one, BitVec.getLsbD_ushiftRight, decide_eq_true hn, Bool.true_and]
  by_cases h0 : k = 0
  · subst h0
    rw [Nat.add_zero, ha _ (shamt_lt hn b)]
    rfl
  · simp [h0]

/-- slo has ones below the shift amount and the source bits from there up. -/
theorem getLsbD_slo (ha : ∀ j < n, a.getLsbD j = f j) (b : BitVec m) (hk : k < n) :
    (slo a b).getLsbD k = (k < shamt n b || f (k - shamt n b)) := by
  have hsource : k - shamt n b < n := by omega
  rw [slo, getLsbD_not_of_lt _ hk, BitVec.getLsbD_shiftLeft, getLsbD_not_of_lt _ hsource, ha _ hsource]
  simp [hk]

/-- sro has the source bits from the shift amount up, and ones where these end. -/
theorem getLsbD_sro (ha : ∀ j < n, a.getLsbD j = f j) (b : BitVec m) (hk : k < n) :
    (sro a b).getLsbD k = (n ≤ k + shamt n b || f (k + shamt n b)) := by
  rw [sro, getLsbD_not_of_lt _ hk, BitVec.getLsbD_ushiftRight, Nat.add_comm]
  by_cases hin : k + shamt n b < n
  · rw [getLsbD_not_of_lt _ hin, ha _ hin, Bool.not_not, decide_eq_false (not_le.mpr hin), Bool.false_or]
  · rw [BitVec.getLsbD_of_ge _ _ (not_lt.mp hin), decide_eq_true (not_lt.mp hin)]
    rfl

end

/-! ## A single bit as a word -/

/-- The word that holds one bit at position 0 is the number 0 or 1. -/
theorem bitsOf_beq_zero_and (n : Nat) (c : Bool) : bitsOf n (fun k => k == 0 && c) = BitVec.ofNat n c.toNat := by
  refine (eq_bitsOf fun k hk => ?_).symm
  cases c
  · simp
  · simp [Nat.zero_lt_of_lt hk, beq_eq_decide]

/-- Sign extension keeps that number: bit 31 is 0 (R142). -/
theorem signExtend_bitsOf_beq_zero_and (n : Nat) (c : Bool) :
    (bitsOf 32 fun k => k == 0 && c).signExtend n = bitsOf n fun k => k == 0 && c := by
  rw [bitsOf_beq_zero_and, bitsOf_beq_zero_and, signExtend_ofNat_of_lt (c.toNat_lt.trans (by decide))]

end Sys2Proof.Machine
end

section
/-!
The statements of 41_single_bit_and_shift_ones.md: the result of each instruction.
-/
namespace Sys2Proof.Machine

/-- Settles O29: the bits of the shifted words, the sources being registers and low words of registers. -/
theorem shiftOnes : Obligations.ShiftOnes := by
  rintro s rd rs1 rs2 imm immw p q pw qw rfl rfl rfl rfl
  have ha : ∀ k < s.xlen.bits, (s.x rs1).getLsbD k = s.bit rs1 k := fun k _ => s.getLsbD_x rs1 k
  have haw : ∀ k < 32, (s.xw rs1).getLsbD k = s.bit rs1 k := fun _ => s.getLsbD_xw rs1
  rw [← shamt_32_of_imm5 immw]
  exact ⟨State.done_bitsOf fun _ => getLsbD_slo ha _, State.done_bitsOf fun _ => getLsbD_sro ha _,
    State.done_bitsOf fun _ => getLsbD_slo ha _, State.done_bitsOf fun _ => getLsbD_sro ha _, fun hx =>
    ⟨State.onRv64_doneW_bitsOf hx _ fun _ => getLsbD_slo haw _,
      State.onRv64_doneW_bitsOf hx _ fun _ => getLsbD_sro haw _,
      State.onRv64_doneW_bitsOf hx _ fun _ => getLsbD_slo haw _,
      State.onRv64_doneW_bitsOf hx _ fun _ => getLsbD_sro haw _⟩⟩

/-- Settles O27: the register and the immediate form of a row differ in where the bit number comes from only. -/
theorem singleBit : Obligations.SingleBit := by
  rintro s rd rs1 rs2 imm p q rfl rfl
  have ha : ∀ k < s.xlen.bits, (s.x rs1).getLsbD k = s.bit rs1 k := fun k _ => s.getLsbD_x rs1 k
  exact ⟨State.done_bitsOf fun _ => getLsbD_bset ha _, State.done_bitsOf fun _ => getLsbD_bclr ha _,
    State.done_bitsOf fun _ => getLsbD_binv ha _, State.done_bitsOf fun _ => getLsbD_sbext ha _,
    State.done_bitsOf fun _ => getLsbD_bset ha _, State.done_bitsOf fun _ => getLsbD_bclr ha _,
    State.done_bitsOf fun _ => getLsbD_binv ha _, State.done_bitsOf fun _ => getLsbD_sbext ha _⟩

/-- Settles O28: the same bits at 32, sign-extended; the bit that bextw reads is 0 or 1 after that too. -/
theorem singleBitWord : Obligations.SingleBitWord := by
  rintro s rd rs1 rs2 imm p hx rfl
  have haw : ∀ k < 32, (s.xw rs1).getLsbD k = s.bit rs1 k := fun _ => s.getLsbD_xw rs1
  have hbextw := signExtend_bitsOf_beq_zero_and s.xlen.bits (s.bit rs1 (shamt 32 (s.x rs2)))
  rw [← shamt_32_of_imm5 imm]
  exact ⟨State.onRv64_doneW_bitsOf hx _ fun _ => getLsbD_bset haw _,
    State.onRv64_doneW_bitsOf hx _ fun _ => getLsbD_bclr haw _,
    State.onRv64_doneW_bitsOf hx _ fun _ => getLsbD_binv haw _,
    State.onRv64_doneW_of_eq hx _ ((congrArg _ (eq_bitsOf fun _ => getLsbD_sbext haw _)).trans hbextw),
    State.onRv64_doneW_bitsOf hx _ fun _ => getLsbD_bset haw _,
    State.onRv64_doneW_bitsOf hx _ fun _ => getLsbD_bclr haw _,
    State.onRv64_doneW_bitsOf hx _ fun _ => getLsbD_binv haw _⟩

end Sys2Proof.Machine
end

section
/-!
SUPPORT. The bits of each operation of 42_rotate_grev_gorc.md. As for 41, each rule takes the bits of its source word as a
function.
-/
namespace Sys2Proof.Machine

/-! ## Rotations (R170) -/

section
variable {n m k : Nat} {a : BitVec n} {f : Nat → Bool}

/-- rol is the library's rotation. For the amount 0 R170 shifts its second part by 0, the library by the width. -/
theorem rol_eq_rotateLeft (hn : 0 < n) (b : BitVec m) : rol a b = a.rotateLeft b.toNat := by
  rw [rol, BitVec.rotateLeft_def, shamt]
  by_cases h0 : b.toNat % n = 0
  · simp [h0, BitVec.ushiftRight_eq_zero]
  · rw [Nat.mod_eq_of_lt (Nat.sub_lt hn (Nat.pos_of_ne_zero h0))]

/-- ror is the library's rotation, likewise. -/
theorem ror_eq_rotateRight (hn : 0 < n) (b : BitVec m) : ror a b = a.rotateRight b.toNat := by
  rw [ror, BitVec.rotateRight_def, shamt]
  by_cases h0 : b.toNat % n = 0
  · simp [h0]
  · rw [Nat.mod_eq_of_lt (Nat.sub_lt hn (Nat.pos_of_ne_zero h0))]

/-- rol takes each bit from the shift amount below it, around the end of the word. -/
theorem getLsbD_rol (ha : ∀ j < n, a.getLsbD j = f j) (b : BitVec m) (hk : k < n) :
    (rol a b).getLsbD k = f ((k + n - shamt n b) % n) := by
  have hn : 0 < n := Nat.zero_lt_of_lt hk
  have hamount := shamt_lt hn b
  rw [rol_eq_rotateLeft hn, BitVec.getLsbD_rotateLeft, ← shamt]
  by_cases hwrap : k < shamt n b
  · have hsource : (k + n - shamt n b) % n = n - shamt n b + k := by
      rw [Nat.mod_eq_of_lt (by omega)]
      omega
    simp [hwrap, hsource, ha (n - shamt n b + k) (by omega)]
  · have hsource : (k + n - shamt n b) % n = k - shamt n b := by
      rw [show k + n - shamt n b = k - shamt n b + n by omega, Nat.add_mod_right, Nat.mod_eq_of_lt (by omega)]
    simp [hwrap, hsource, hk, ha (k - shamt n b) (by omega)]

/-- ror takes each bit from the shift amount above it, around the end of the word. -/
theorem getLsbD_ror (ha : ∀ j < n, a.getLsbD j = f j) (b : BitVec m) (hk : k < n) :
    (ror a b).getLsbD k = f ((k + shamt n b) % n) := by
  have hn : 0 < n := Nat.zero_lt_of_lt hk
  have hamount := shamt_lt hn b
  rw [ror_eq_rotateRight hn, BitVec.getLsbD_rotateRight, ← shamt]
  by_cases hin : k < n - shamt n b
  · have hsource : (k + shamt n b) % n = shamt n b + k := by
      rw [Nat.mod_eq_of_lt (by omega), Nat.add_comm]
    simp [hin, hsource, ha (shamt n b + k) (by omega)]
  · have hsource : (k + shamt n b) % n = k - (n - shamt n b) := by
      rw [show k + shamt n b = k - (n - shamt n b) + n by omega, Nat.add_mod_right, Nat.mod_eq_of_lt (by omega)]
    simp [hin, hsource, hk, ha (k - (n - shamt n b)) (by omega)]

end

/-! ## Bit addresses -/

/-- Inverting a bit of an address flips it. -/
theorem testBit_xor_two_pow_self (i k : Nat) : (i ^^^ 2 ^ k).testBit k = !i.testBit k := by
  rw [Nat.testBit_xor, Nat.testBit_two_pow_self, Bool.xor_true]

/-- Inverting a 0 of an address adds its place value: the part above the bit is even and grows by 1, the part below stays. -/
theorem xor_two_pow_of_testBit_false {i k : Nat} (h : i.testBit k = false) : i ^^^ 2 ^ k = i + 2 ^ k := by
  have heven : Even (i / 2 ^ k) := by
    rw [Nat.testBit_eq_decide_div_mod_eq, decide_eq_false_iff_not] at h
    exact Nat.even_iff.mpr (by omega)
  have hdiv : (i ^^^ 2 ^ k) / 2 ^ k = i / 2 ^ k + 1 := by
    rw [Nat.xor_div_two_pow, Nat.div_self (by positivity), Nat.xor_one_of_even heven]
  have hmod : (i ^^^ 2 ^ k) % 2 ^ k = i % 2 ^ k := by
    rw [Nat.xor_mod_two_pow, Nat.mod_self, Nat.xor_zero]
  rw [← Nat.div_add_mod (i ^^^ 2 ^ k) (2 ^ k), hdiv, hmod, Nat.mul_add_one, Nat.add_right_comm, Nat.div_add_mod]

/-- Inverting a 1 of an address takes its place value away. -/
theorem xor_two_pow_add_of_testBit {i k : Nat} (h : i.testBit k = true) : (i ^^^ 2 ^ k) + 2 ^ k = i := by
  rw [← xor_two_pow_of_testBit_false (by rw [testBit_xor_two_pow_self, h]; rfl), Nat.xor_xor_cancel_right]

/-- One more low bit of a control word. -/
theorem mod_two_pow_succ (c t : Nat) :
    c % 2 ^ (t + 1) = if c.testBit t = true then c % 2 ^ t ^^^ 2 ^ t else c % 2 ^ t := by
  have hlow : (c % 2 ^ t).testBit t = false := Nat.testBit_lt_two_pow (Nat.mod_lt _ (by positivity))
  rw [xor_two_pow_of_testBit_false hlow, Nat.mod_pow_succ, Nat.testBit_eq_decide_div_mod_eq]
  rcases Nat.mod_two_eq_zero_or_one (c / 2 ^ t) with h | h <;> simp [h]

/-- An address difference lies inside a control word exactly if each of its bits is in the control word. -/
theorem or_eq_right_iff_testBit {d c : Nat} : d ||| c = c ↔ ∀ i, d.testBit i = true → c.testBit i = true := by
  refine ⟨fun h i hi => ?_, fun h => Nat.eq_of_testBit_eq fun i => ?_⟩
  · rw [← h, Nat.testBit_or, hi, Bool.true_or]
  · rw [Nat.testBit_or]
    cases hi : d.testBit i with
    | false => rfl
    | true => rw [h i hi]; rfl

/-- A difference lies inside a control word with one more bit exactly if it does so without the bit, as it is or with the bit
inverted. -/
theorem or_xor_two_pow_eq_right_iff {d c t : Nat} (hc : c.testBit t = false) :
    d ||| (c ^^^ 2 ^ t) = c ^^^ 2 ^ t ↔ d ||| c = c ∨ (d ^^^ 2 ^ t) ||| c = c := by
  have hother {e i : Nat} (hi : i ≠ t) : (e ^^^ 2 ^ t).testBit i = e.testBit i := by
    rw [Nat.testBit_xor, Nat.testBit_two_pow_of_ne hi.symm, Bool.xor_false]
  simp only [or_eq_right_iff_testBit]
  constructor
  · intro h
    have hoff {i : Nat} (hi : i ≠ t) (hd : d.testBit i = true) : c.testBit i = true := hother hi ▸ h i hd
    cases hdt : d.testBit t with
    | false => exact .inl fun i hd => hoff (by rintro rfl; simp [hdt] at hd) hd
    | true =>
      have hclear : (d ^^^ 2 ^ t).testBit t = false := by rw [testBit_xor_two_pow_self, hdt]; rfl
      refine .inr fun i hd => ?_
      have hi : i ≠ t := by rintro rfl; simp [hclear] at hd
      exact hoff hi (hother hi ▸ hd)
  · intro h i hd
    by_cases hi : i = t
    · rw [hi, testBit_xor_two_pow_self, hc]
      rfl
    · rw [hother hi]
      exact h.elim (· i hd) (· i ((hother hi).trans hd))

/-! ## One stage (R180) -/

/-- `L_k` has the addresses whose bit k is 0. -/
theorem getLsbD_grevMaskL : ∀ k < 6, ∀ i < 64, (grevMaskL k).getLsbD i = !i.testBit k := by decide

/-- `H_k` has the addresses whose bit k is 1. -/
theorem getLsbD_grevMaskH : ∀ k < 6, ∀ i < 64, (grevMaskH k).getLsbD i = i.testBit k := by decide

/-- A mask of 64 bits selects the addresses with the property `p` at any width up to 64. -/
theorem getLsbD_setWidth_mask {n : Nat} (hn : n ≤ 64) {mask : BitVec 64} {p : Nat → Bool}
    (hmask : ∀ i < 64, mask.getLsbD i = p i) (x : BitVec n) (i : Nat) :
    (x &&& mask.setWidth n).getLsbD i = (x.getLsbD i && p i) := by
  rw [BitVec.getLsbD_and, BitVec.getLsbD_setWidth]
  by_cases hi : i < n
  · rw [decide_eq_true hi, Bool.true_and, hmask i (hi.trans_le hn)]
  · rw [BitVec.getLsbD_of_ge x i (not_lt.mp hi), Bool.false_and, Bool.false_and]

/-- Swapping pairs inverts bit k of every address: a bit whose address has a 1 there comes from below, through the left shift,
any other from above. -/
theorem getLsbD_swapPairs {n k i : Nat} (hn : n ≤ 64) (hk : k < 6) (x : BitVec n) (hi : i < n) :
    (swapPairs k x).getLsbD i = x.getLsbD (i ^^^ 2 ^ k) := by
  rw [swapPairs, BitVec.getLsbD_or, BitVec.getLsbD_shiftLeft, BitVec.getLsbD_ushiftRight,
    getLsbD_setWidth_mask hn (getLsbD_grevMaskL k hk), getLsbD_setWidth_mask hn (getLsbD_grevMaskH k hk),
    Nat.testBit_two_pow_add_eq]
  cases hbit : i.testBit k with
  | false =>
    have hsource : 2 ^ k + i = i ^^^ 2 ^ k := by rw [xor_two_pow_of_testBit_false hbit, Nat.add_comm]
    have hlower : i < 2 ^ k ∨ (i - 2 ^ k).testBit k = true := by
      refine or_iff_not_imp_left.mpr fun hge => ?_
      rw [← Nat.add_sub_cancel' (not_lt.mp hge), Nat.testBit_two_pow_add_eq] at hbit
      simpa using hbit
    rcases hlower with h | h <;> simp [h, hsource]
  | true =>
    have hsource := xor_two_pow_add_of_testBit hbit
    have hdiff : i - 2 ^ k = i ^^^ 2 ^ k := by omega
    have hge : ¬i < 2 ^ k := by omega
    simp [hi, hge, hdiff, hbit, Nat.testBit_two_pow_self]

/-! ## The stages in turn (R180, R190) -/

/-- The widths the stages are for: a power of two, up to that of the masks. -/
structure StagedWidth (n : Nat) : Prop where
  eq_two_pow : n = 2 ^ logWidth n
  log_le : logWidth n ≤ 6

theorem stagedWidth_32 : StagedWidth 32 := ⟨by decide, by decide⟩

theorem stagedWidth_bits (x : Xlen) : StagedWidth x.bits := by
  cases x <;> exact ⟨by decide, by decide⟩

section
variable {n m : Nat} {a : BitVec n} {f : Nat → Bool}

theorem StagedWidth.le_64 (hw : StagedWidth n) : n ≤ 64 :=
  hw.eq_two_pow.trans_le (Nat.pow_le_pow_right (by decide) hw.log_le)

/-- An address of the word with one of its bits inverted is an address of the word. -/
theorem StagedWidth.xor_two_pow_lt (hw : StagedWidth n) {i k : Nat} (hi : i < n) (hk : k < logWidth n) :
    i ^^^ 2 ^ k < n := by
  have heq := hw.eq_two_pow
  rw [heq] at hi ⊢
  exact Nat.xor_lt_two_pow hi (Nat.pow_lt_pow_right (by decide) hk)

/-- All the bits of the control word that the stages look at are the shift amount. -/
theorem StagedWidth.mod_eq_shamt (hw : StagedWidth n) (b : BitVec m) : b.toNat % 2 ^ logWidth n = shamt n b := by
  rw [← hw.eq_two_pow, shamt]

/-- The first `t` stages of grev. -/
def grevStages (a : BitVec n) (b : BitVec m) (t : Nat) : BitVec n :=
  (List.range t).foldl (fun x k => if b.getLsbD k then swapPairs k x else x) a

/-- The first `t` stages of gorc. -/
def gorcStages (a : BitVec n) (b : BitVec m) (t : Nat) : BitVec n :=
  (List.range t).foldl (fun x k => if b.getLsbD k then x ||| swapPairs k x else x) a

theorem grev_eq_grevStages (a : BitVec n) (b : BitVec m) : grev a b = grevStages a b (logWidth n) := rfl

theorem gorc_eq_gorcStages (a : BitVec n) (b : BitVec m) : gorc a b = gorcStages a b (logWidth n) := rfl

theorem grevStages_succ (a : BitVec n) (b : BitVec m) (t : Nat) :
    grevStages a b (t + 1) =
      if b.toNat.testBit t = true then swapPairs t (grevStages a b t) else grevStages a b t := by
  rw [grevStages, List.range_succ, List.foldl_append]
  rfl

theorem gorcStages_succ (a : BitVec n) (b : BitVec m) (t : Nat) :
    gorcStages a b (t + 1) =
      if b.toNat.testBit t = true then gorcStages a b t ||| swapPairs t (gorcStages a b t) else gorcStages a b t := by
  rw [gorcStages, List.range_succ, List.foldl_append]
  rfl

/-- After `t` stages of grev every bit is the one whose address differs in the low `t` bits of the control word. -/
theorem getLsbD_grevStages (hw : StagedWidth n) (ha : ∀ j < n, a.getLsbD j = f j) (b : BitVec m) {t : Nat}
    (ht : t ≤ logWidth n) : ∀ k < n, (grevStages a b t).getLsbD k = f (k ^^^ b.toNat % 2 ^ t) := by
  induction t with
  | zero => exact fun k hk => by simpa [grevStages, Nat.mod_one] using ha k hk
  | succ t ih =>
    intro k hk
    have hlog := hw.log_le
    have hsource := hw.xor_two_pow_lt hk ht
    rw [grevStages_succ, mod_two_pow_succ]
    split
    · rw [getLsbD_swapPairs hw.le_64 (by omega) _ hk, ih (by omega) _ hsource, Nat.xor_assoc,
        Nat.xor_comm (2 ^ t)]
    · exact ih (by omega) k hk

/-- grev inverts the address bits that the control word names. -/
theorem getLsbD_grev (hw : StagedWidth n) (ha : ∀ j < n, a.getLsbD j = f j) (b : BitVec m) {k : Nat} (hk : k < n) :
    (grev a b).getLsbD k = f (k ^^^ shamt n b) := by
  rw [grev_eq_grevStages, getLsbD_grevStages hw ha b le_rfl k hk, hw.mod_eq_shamt]

/-- The statements' or of bits, as a search. -/
theorem orBits_eq_true_iff {g : Nat → Bool} : orBits n g = true ↔ ∃ j < n, g j = true := by
  induction n with
  | zero => simp [orBits]
  | succ n ih => rw [orBits, Bool.or_eq_true, ih, Nat.exists_lt_succ_right]

/-- After `t` stages of gorc a bit is 1 exactly if the word had a 1 at some address that differs inside the low `t` bits of the
control word only. -/
theorem getLsbD_gorcStages (hw : StagedWidth n) (ha : ∀ j < n, a.getLsbD j = f j) (b : BitVec m) {t : Nat}
    (ht : t ≤ logWidth n) : ∀ k < n, (gorcStages a b t).getLsbD k = true ↔
      ∃ j < n, (j ^^^ k) ||| b.toNat % 2 ^ t = b.toNat % 2 ^ t ∧ f j = true := by
  induction t with
  | zero =>
    intro k hk
    rw [gorcStages, List.range_zero, List.foldl_nil, ha k hk]
    simp [Nat.mod_one, hk]
  | succ t ih =>
    intro k hk
    have hlog := hw.log_le
    have hsource := hw.xor_two_pow_lt hk ht
    have hlow : (b.toNat % 2 ^ t).testBit t = false := Nat.testBit_lt_two_pow (Nat.mod_lt _ (by positivity))
    rw [gorcStages_succ, mod_two_pow_succ]
    split
    · rw [BitVec.getLsbD_or, getLsbD_swapPairs hw.le_64 (by omega) _ hk, Bool.or_eq_true, ih (by omega) k hk,
        ih (by omega) _ hsource]
      simp only [or_xor_two_pow_eq_right_iff hlow, ← Nat.xor_assoc, or_and_right, and_or_left, exists_or]
    · exact ih (by omega) k hk

/-- gorc joins the bits whose addresses differ inside the control word. -/
theorem getLsbD_gorc (hw : StagedWidth n) (ha : ∀ j < n, a.getLsbD j = f j) (b : BitVec m) {k : Nat} (hk : k < n) :
    (gorc a b).getLsbD k = orBits n fun j => (j ^^^ k) ||| shamt n b == shamt n b && f j := by
  rw [gorc_eq_gorcStages, Bool.eq_iff_iff, getLsbD_gorcStages hw ha b le_rfl k hk, hw.mod_eq_shamt, orBits_eq_true_iff]
  simp only [Bool.and_eq_true, beq_iff_eq]

end

end Sys2Proof.Machine
end

section
/-!
The statements of 42_rotate_grev_gorc.md: the result of each instruction.
-/
namespace Sys2Proof.Machine

/-- Settles O31: the register and the immediate form differ in where the control word comes from only. -/
theorem generalizedReverse : Obligations.GeneralizedReverse := by
  intro s rd rs1 rs2 imm
  have hw := stagedWidth_bits s.xlen
  have ha : ∀ k < s.xlen.bits, (s.x rs1).getLsbD k = s.bit rs1 k := fun k _ => s.getLsbD_x rs1 k
  exact ⟨State.done_bitsOf fun _ => getLsbD_grev hw ha _, State.done_bitsOf fun _ => getLsbD_grev hw ha _⟩

/-- Settles O32: as for grev, with the bits that gorc joins. -/
theorem generalizedOrCombine : Obligations.GeneralizedOrCombine := by
  rintro s rd rs1 rs2 imm n c d rfl rfl rfl
  have hw := stagedWidth_bits s.xlen
  have ha : ∀ k < s.xlen.bits, (s.x rs1).getLsbD k = s.bit rs1 k := fun k _ => s.getLsbD_x rs1 k
  exact ⟨State.done_bitsOf fun _ => getLsbD_gorc hw ha _, State.done_bitsOf fun _ => getLsbD_gorc hw ha _⟩

/-- Settles O33: the same bits at 32, from the low word. -/
theorem reverseAndCombineWord : Obligations.ReverseAndCombineWord := by
  rintro s rd rs1 rs2 imm c d hx rfl rfl
  have hw := stagedWidth_32
  have haw : ∀ k < 32, (s.xw rs1).getLsbD k = s.bit rs1 k := fun _ => s.getLsbD_xw rs1
  rw [← shamt_32_of_imm5 imm]
  exact ⟨State.onRv64_doneW_bitsOf hx _ fun _ => getLsbD_grev hw haw _,
    State.onRv64_doneW_bitsOf hx _ fun _ => getLsbD_grev hw haw _,
    State.onRv64_doneW_bitsOf hx _ fun _ => getLsbD_gorc hw haw _,
    State.onRv64_doneW_bitsOf hx _ fun _ => getLsbD_gorc hw haw _⟩

/-- Settles O30: the bits of the rotated words, the sources being registers and low words of registers. -/
theorem rotate : Obligations.Rotate := by
  rintro s rd rs1 rs2 imm immw n p q pw qw rfl rfl rfl rfl rfl
  have ha : ∀ k < s.xlen.bits, (s.x rs1).getLsbD k = s.bit rs1 k := fun k _ => s.getLsbD_x rs1 k
  have haw : ∀ k < 32, (s.xw rs1).getLsbD k = s.bit rs1 k := fun _ => s.getLsbD_xw rs1
  rw [← shamt_32_of_imm5 immw]
  exact ⟨State.done_bitsOf fun _ => getLsbD_rol ha _, State.done_bitsOf fun _ => getLsbD_ror ha _,
    State.done_bitsOf fun _ => getLsbD_ror ha _, fun hx =>
    ⟨State.onRv64_doneW_bitsOf hx _ fun _ => getLsbD_rol haw _,
      State.onRv64_doneW_bitsOf hx _ fun _ => getLsbD_ror haw _,
      State.onRv64_doneW_bitsOf hx _ fun _ => getLsbD_ror haw _⟩⟩

end Sys2Proof.Machine
end

section
/-!
SUPPORT. The bits of each operation of 43_shuffle_and_xperm.md. Every stage of a shuffle swaps two neighbouring bits of the
bit addresses; the stages in turn carry an address to the one that `unperm` computes (R217). As for 41, the rules for shfl
and unshfl take the bits of the source word as a function.
-/
namespace Sys2Proof.Machine

/-! ## Swapping two neighbouring bits of an address (R217) -/

/-- The address `i` with its bits k and k+1 swapped. -/
def swapAddr (k i : Nat) : Nat :=
  if i.testBit (k + 1) = i.testBit k then i else i ^^^ 2 ^ k ^^^ 2 ^ (k + 1)

theorem testBit_swapAddr (k i j : Nat) :
    (swapAddr k i).testBit j =
      if j = k then i.testBit (k + 1) else if j = k + 1 then i.testBit k else i.testBit j := by
  rw [swapAddr]
  split
  next heq => grind
  next hne =>
    have hflip : i.testBit (k + 1) = !i.testBit k := Bool.eq_not_iff.mpr hne
    rw [Nat.testBit_xor, Nat.testBit_xor, Nat.testBit_two_pow, Nat.testBit_two_pow]
    by_cases hk : j = k
    · simp [hk, hflip]
    · by_cases hk1 : j = k + 1
      · simp [hk1, hflip]
      · simp [hk, hk1, Ne.symm hk, Ne.symm hk1]

/-- Swapping twice changes nothing. -/
theorem swapAddr_swapAddr (k i : Nat) : swapAddr k (swapAddr k i) = i := by
  refine Nat.eq_of_testBit_eq fun j => ?_
  simp only [testBit_swapAddr]
  grind

/-- A swap below the top bit keeps an address of the word inside the word. -/
theorem swapAddr_lt {k i w : Nat} (hi : i < 2 ^ w) (hk : k + 1 < w) : swapAddr k i < 2 ^ w := by
  rw [swapAddr]
  split
  · exact hi
  · exact Nat.xor_lt_two_pow (Nat.xor_lt_two_pow hi (Nat.pow_lt_pow_right (by decide) (by omega)))
      (Nat.pow_lt_pow_right (by decide) hk)

/-- An address with 1 0 in the two bits is swapped with one 2^k below. -/
theorem swapAddr_add_two_pow {k i : Nat} (hhigh : i.testBit (k + 1) = true) (hlow : i.testBit k = false) :
    swapAddr k i + 2 ^ k = i := by
  have hinner := xor_two_pow_of_testBit_false hlow
  have houter : (i ^^^ 2 ^ k ^^^ 2 ^ (k + 1)) + 2 ^ (k + 1) = i ^^^ 2 ^ k :=
    xor_two_pow_add_of_testBit (by simp [hhigh])
  have hne : ¬i.testBit (k + 1) = i.testBit k := by simp [hhigh, hlow]
  rw [swapAddr, if_neg hne]
  omega

/-- An address with 0 1 in the two bits is swapped with one 2^k above. -/
theorem swapAddr_eq_add_two_pow {k i : Nat} (hhigh : i.testBit (k + 1) = false) (hlow : i.testBit k = true) :
    swapAddr k i = 2 ^ k + i := by
  have hswapped := swapAddr_add_two_pow (k := k) (i := swapAddr k i) (by simp [testBit_swapAddr, hlow])
    (by simp [testBit_swapAddr, hhigh])
  rw [← hswapped, swapAddr_swapAddr, Nat.add_comm]

/-! ## One stage (R210) -/

/-- `ML_k` has the addresses with 1 0 in bits k+1 and k. -/
theorem getLsbD_shuffleMaskL :
    ∀ k < 5, ∀ i < 64, (shuffleMaskL k).getLsbD i = (i.testBit (k + 1) && !i.testBit k) := by decide

/-- `MR_k` has the addresses with 0 1 in bits k+1 and k. -/
theorem getLsbD_shuffleMaskR :
    ∀ k < 5, ∀ i < 64, (shuffleMaskR k).getLsbD i = (!i.testBit (k + 1) && i.testBit k) := by decide

/-- A stage swaps bits k and k+1 of every address: 1 0 takes its bit from below, 0 1 from above, the others stay. -/
theorem getLsbD_shuffleStage {n k i : Nat} (hn : n ≤ 64) (hk : k < 5) (x : BitVec n) (hi : i < n) :
    (shuffleStage k x).getLsbD i = x.getLsbD (swapAddr k i) := by
  have hmaskL : ((shuffleMaskL k).setWidth n).getLsbD i = (i.testBit (k + 1) && !i.testBit k) := by
    rw [BitVec.getLsbD_setWidth, decide_eq_true hi, Bool.true_and, getLsbD_shuffleMaskL k hk i (by omega)]
  have hmaskR : ((shuffleMaskR k).setWidth n).getLsbD i = (!i.testBit (k + 1) && i.testBit k) := by
    rw [BitVec.getLsbD_setWidth, decide_eq_true hi, Bool.true_and, getLsbD_shuffleMaskR k hk i (by omega)]
  rw [shuffleStage, BitVec.getLsbD_or, BitVec.getLsbD_or, BitVec.getLsbD_and, BitVec.getLsbD_and, BitVec.getLsbD_and,
    getLsbD_not_of_lt _ hi, BitVec.getLsbD_or, hmaskL, hmaskR, BitVec.getLsbD_shiftLeft, BitVec.getLsbD_ushiftRight]
  cases hhigh : i.testBit (k + 1) <;> cases hlow : i.testBit k
  case true.false =>
    have hsource := swapAddr_add_two_pow hhigh hlow
    have hbelow : i - 2 ^ k = swapAddr k i := by omega
    have hge : ¬i < 2 ^ k := by omega
    simp [hi, hge, hbelow]
  case false.true => simp [swapAddr_eq_add_two_pow hhigh hlow]
  all_goals simp [swapAddr, hhigh, hlow]

/-! ## The stages in turn (R210) -/

/-- Where the stages below `t` that `c` names carry the address `i`, the narrowest first. -/
def shuffleAddr (c i : Nat) : Nat → Nat
  | 0 => i
  | t + 1 => if c.testBit t then swapAddr t (shuffleAddr c i t) else shuffleAddr c i t

theorem shuffleAddr_lt {c i w t : Nat} (hi : i < 2 ^ w) (ht : t < w) : shuffleAddr c i t < 2 ^ w := by
  induction t with
  | zero => exact hi
  | succ t ih =>
    have hlt := ih (by omega)
    rw [shuffleAddr]
    split
    · exact swapAddr_lt hlt ht
    · exact hlt

/-- The stages below `t` read the control word below `t` only. -/
theorem shuffleAddr_congr {c d i t : Nat} (h : ∀ k < t, c.testBit k = d.testBit k) :
    shuffleAddr c i t = shuffleAddr d i t := by
  induction t with
  | zero => rfl
  | succ t ih => rw [shuffleAddr, shuffleAddr, ih fun k hk => h k (by omega), h t (by omega)]

section
variable {n m : Nat} {a : BitVec n}

/-- The stages carry an address of the word to one of the word. -/
theorem StagedWidth.shuffleAddr_lt (hw : StagedWidth n) (c : Nat) {i t : Nat} (hi : i < n) (ht : t < logWidth n) :
    shuffleAddr c i t < n := by
  have heq := hw.eq_two_pow
  rw [heq] at hi ⊢
  exact Machine.shuffleAddr_lt hi ht

/-- The stages of shfl below `t`, the widest first. -/
def shflStages (a : BitVec n) (b : BitVec m) (t : Nat) : BitVec n :=
  (List.range t).reverse.foldl (fun x k => if b.getLsbD k then shuffleStage k x else x) a

/-- The stages of unshfl below `t`, the narrowest first. -/
def unshflStages (a : BitVec n) (b : BitVec m) (t : Nat) : BitVec n :=
  (List.range t).foldl (fun x k => if b.getLsbD k then shuffleStage k x else x) a

theorem shfl_eq_shflStages (a : BitVec n) (b : BitVec m) : shfl a b = shflStages a b (logWidth n - 1) := rfl

theorem unshfl_eq_unshflStages (a : BitVec n) (b : BitVec m) : unshfl a b = unshflStages a b (logWidth n - 1) := rfl

theorem shflStages_succ (a : BitVec n) (b : BitVec m) (t : Nat) :
    shflStages a b (t + 1) =
      if b.toNat.testBit t = true then shflStages (shuffleStage t a) b t else shflStages a b t := by
  rw [shflStages, List.range_succ, List.reverse_append, List.reverse_singleton, List.singleton_append, List.foldl_cons]
  exact apply_ite (shflStages · b t) _ _ _

theorem unshflStages_succ (a : BitVec n) (b : BitVec m) (t : Nat) :
    unshflStages a b (t + 1) =
      if b.toNat.testBit t = true then shuffleStage t (unshflStages a b t) else unshflStages a b t := by
  rw [unshflStages, List.range_succ, List.foldl_append]
  rfl

/-- Each stage of shfl moves the source of a bit on, so the sources follow the stages narrowest first. -/
theorem getLsbD_shflStages (hw : StagedWidth n) (b : BitVec m) {t : Nat} (ht : t < logWidth n) {i : Nat} (hi : i < n) :
    (shflStages a b t).getLsbD i = a.getLsbD (shuffleAddr b.toNat i t) := by
  induction t generalizing a with
  | zero => rfl
  | succ t ih =>
    have hlog := hw.log_le
    have hsource := hw.shuffleAddr_lt b.toNat hi (t := t) (by omega)
    rw [shflStages_succ, shuffleAddr]
    split
    · rw [ih (by omega), getLsbD_shuffleStage hw.le_64 (by omega) _ hsource]
    · exact ih (by omega)

/-- Each stage of unshfl moves a bit on, so the bits themselves follow the stages narrowest first. -/
theorem getLsbD_unshflStages (hw : StagedWidth n) (b : BitVec m) {t : Nat} (ht : t < logWidth n) {i : Nat} (hi : i < n) :
    (unshflStages a b t).getLsbD (shuffleAddr b.toNat i t) = a.getLsbD i := by
  induction t with
  | zero => rfl
  | succ t ih =>
    have hlog := hw.log_le
    have htarget := hw.shuffleAddr_lt b.toNat hi ht
    rw [shuffleAddr] at htarget ⊢
    rw [unshflStages_succ]
    split
    next hbit =>
      rw [if_pos hbit] at htarget
      rw [getLsbD_shuffleStage hw.le_64 (by omega) _ htarget, swapAddr_swapAddr]
      exact ih (by omega)
    next => exact ih (by omega)

end

/-! ## The stages as `unperm` (R217)

Going up the address, the swaps carry one bit along: through a run of ones of the control word it is the address bit at the
start of the run, and it is put down at the end of the run. The addition in `unperm` carries the same bit through the run. -/

/-- The address bit that stands at position `t` after the stages below `t`. -/
def carriedBit (c i : Nat) : Nat → Bool
  | 0 => i.testBit 0
  | t + 1 => if c.testBit t then carriedBit c i t else i.testBit (t + 1)

theorem testBit_shuffleAddr (c i t j : Nat) : (shuffleAddr c i t).testBit j =
    if j < t then (if c.testBit j then i.testBit (j + 1) else carriedBit c i j)
    else if j = t then carriedBit c i t else i.testBit j := by
  induction t generalizing j with
  | zero =>
    rw [shuffleAddr]
    by_cases hj : j = 0
    · subst hj; rfl
    · simp [hj]
  | succ t ih =>
    rw [shuffleAddr, carriedBit]
    split
    next hbit =>
      rw [testBit_swapAddr]
      grind
    next hbit => grind

/-- The ones of `c` that start a run, where the address has a 1 too: what `unperm` adds to the control word. -/
def runStarts {w : Nat} (c i : BitVec w) : BitVec w := i &&& c &&& ~~~(c <<< 1)

section
variable {w t : Nat} (c i : BitVec w)

theorem getLsbD_shiftLeft_one_succ (ht : t + 1 < w) : (c <<< 1).getLsbD (t + 1) = c.getLsbD t := by
  rw [BitVec.getLsbD_shiftLeft, decide_eq_true ht, decide_eq_false (by omega)]
  rfl

theorem getLsbD_runStarts (ht : t < w) :
    (runStarts c i).getLsbD t = (i.getLsbD t && c.getLsbD t && !(c <<< 1).getLsbD t) := by
  rw [runStarts, BitVec.getLsbD_and, BitVec.getLsbD_and, getLsbD_not_of_lt _ ht]

/-- The addition in `unperm` carries the same bit as the swaps, inside a run. -/
theorem carry_runStarts (ht : t < w) :
    BitVec.carry (t + 1) c (runStarts c i) false = (c.getLsbD t && carriedBit c.toNat i.toNat t) := by
  induction t with
  | zero =>
    rw [BitVec.carry_succ, BitVec.carry_zero, getLsbD_runStarts c i ht, carriedBit, BitVec.testBit_toNat]
    cases c.getLsbD 0 <;> simp [Bool.atLeastTwo]
  | succ t ih =>
    rw [BitVec.carry_succ, ih (by omega), getLsbD_runStarts c i ht, getLsbD_shiftLeft_one_succ c ht, carriedBit,
      BitVec.testBit_toNat, BitVec.testBit_toNat]
    cases c.getLsbD (t + 1) <;> cases c.getLsbD t <;> simp [Bool.atLeastTwo]

/-- Where the control word is 0, the sum in `unperm` has the carry. -/
theorem getLsbD_add_runStarts (ht : t < w) : ((c + runStarts c i) &&& ~~~c).getLsbD t =
    (!c.getLsbD t && BitVec.carry t c (runStarts c i) false) := by
  rw [BitVec.getLsbD_and, getLsbD_not_of_lt _ ht, BitVec.getLsbD_add ht, getLsbD_runStarts c i ht]
  cases c.getLsbD t <;> simp

/-- Inside a run the word that `unperm` forms has the next higher address bit, elsewhere the bit carried there. -/
theorem getLsbD_unpermWord (ht : t < w) :
    (((c + runStarts c i) &&& ~~~c) ||| (i &&& ~~~(c ||| c <<< 1)) ||| ((i >>> 1) &&& c)).getLsbD t =
      if c.getLsbD t then i.getLsbD (t + 1) else carriedBit c.toNat i.toNat t := by
  rw [BitVec.getLsbD_or, BitVec.getLsbD_or, getLsbD_add_runStarts c i ht, BitVec.getLsbD_and, getLsbD_not_of_lt _ ht,
    BitVec.getLsbD_or, BitVec.getLsbD_and, BitVec.getLsbD_ushiftRight, Nat.add_comm 1 t]
  cases t with
  | zero =>
    rw [BitVec.carry_zero, carriedBit, BitVec.testBit_toNat]
    cases c.getLsbD 0 <;> simp
  | succ t =>
    rw [carry_runStarts c i (by omega), getLsbD_shiftLeft_one_succ c ht, carriedBit, BitVec.testBit_toNat,
      BitVec.testBit_toNat]
    cases c.getLsbD (t + 1) <;> cases c.getLsbD t <;> simp

end

theorem testBit_unperm {c i j : Nat} (hc : c < 2 ^ 7) (hi : i < 2 ^ 7) (hj : j < 7) :
    (unperm c i).testBit j = if c.testBit j then i.testBit (j + 1) else carriedBit c i j := by
  have hbits := getLsbD_unpermWord (BitVec.ofNat 7 c) (BitVec.ofNat 7 i) hj
  rw [← BitVec.testBit_toNat, ← BitVec.testBit_toNat, ← BitVec.testBit_toNat, BitVec.toNat_ofNat, BitVec.toNat_ofNat,
    Nat.mod_eq_of_lt hc, Nat.mod_eq_of_lt hi] at hbits
  exact hbits

theorem unperm_lt (c i : Nat) : unperm c i < 2 ^ 7 := BitVec.isLt _

/-- The stages that the control word names carry an address to where `unperm` computes it (R217). -/
theorem unperm_eq_shuffleAddr {c i t : Nat} (hc : c < 2 ^ t) (ht : t < 7) (hi : i < 2 ^ 7) :
    unperm c i = shuffleAddr c i t := by
  have hzero {j : Nat} (hj : t ≤ j) : c.testBit j = false :=
    Nat.testBit_lt_two_pow (hc.trans_le (Nat.pow_le_pow_right (by decide) hj))
  have hc7 : c < 2 ^ 7 := hc.trans_le (Nat.pow_le_pow_right (by decide) ht.le)
  refine Nat.eq_of_testBit_eq fun j => ?_
  by_cases hj : j < 7
  · rw [testBit_unperm hc7 hi hj, testBit_shuffleAddr]
    rcases lt_trichotomy j t with hbelow | rfl | habove
    · rw [if_pos hbelow]
    · rw [if_neg (lt_irrefl j), if_pos rfl, hzero le_rfl, if_neg Bool.false_ne_true]
    · obtain ⟨u, rfl⟩ : ∃ u, j = u + 1 := ⟨j - 1, by omega⟩
      rw [if_neg habove.not_gt, if_neg habove.ne', hzero habove.le, if_neg Bool.false_ne_true, carriedBit,
        hzero (Nat.lt_succ_iff.mp habove), if_neg Bool.false_ne_true]
  · have hpow : 2 ^ 7 ≤ 2 ^ j := Nat.pow_le_pow_right (by decide) (not_lt.mp hj)
    rw [Nat.testBit_lt_two_pow ((unperm_lt c i).trans_le hpow),
      Nat.testBit_lt_two_pow ((shuffleAddr_lt hi ht).trans_le hpow)]

/-! ## The operations, bit by bit (R217) -/

section
variable {n m : Nat} {a : BitVec n} {f : Nat → Bool}

theorem StagedWidth.log_pos (hw : StagedWidth n) (heven : 2 ∣ n) : 0 < logWidth n := by
  refine Nat.pos_of_ne_zero fun h0 => ?_
  have heq := hw.eq_two_pow
  rw [h0] at heq
  omega

/-- The control bits of a shuffle are one fewer than the address bits. -/
theorem StagedWidth.half_eq (hw : StagedWidth n) (heven : 2 ∣ n) : n / 2 = 2 ^ (logWidth n - 1) := by
  have hhalf := Nat.pow_div (hw.log_pos heven) Nat.two_pos
  rwa [← hw.eq_two_pow, pow_one] at hhalf

/-- All the stages together carry an address to `unperm` of it. -/
theorem StagedWidth.shuffleAddr_eq_unperm (hw : StagedWidth n) (heven : 2 ∣ n) (c : Nat) {i : Nat} (hi : i < n) :
    shuffleAddr c i (logWidth n - 1) = unperm (c % (n / 2)) i := by
  have hlog := hw.log_le
  have hn := hw.le_64
  rw [hw.half_eq heven, unperm_eq_shuffleAddr (Nat.mod_lt _ (by positivity)) (by omega) (by omega)]
  exact shuffleAddr_congr fun k hk => by rw [Nat.testBit_mod_two_pow, decide_eq_true hk, Bool.true_and]

/-- shfl takes bit `i` from the address that `unperm` computes. -/
theorem getLsbD_shfl (hw : StagedWidth n) (heven : 2 ∣ n) (ha : ∀ j < n, a.getLsbD j = f j) (b : BitVec m) {i : Nat}
    (hi : i < n) : (shfl a b).getLsbD i = f (unperm (b.toNat % (n / 2)) i) := by
  have hstages : logWidth n - 1 < logWidth n := Nat.sub_one_lt (hw.log_pos heven).ne'
  rw [shfl_eq_shflStages, getLsbD_shflStages hw b hstages hi, ha _ (hw.shuffleAddr_lt _ hi hstages),
    hw.shuffleAddr_eq_unperm heven _ hi]

/-- unshfl puts bit `i` at that address. -/
theorem getLsbD_unshfl (hw : StagedWidth n) (heven : 2 ∣ n) (ha : ∀ j < n, a.getLsbD j = f j) (b : BitVec m) {i : Nat}
    (hi : i < n) : (unshfl a b).getLsbD (unperm (b.toNat % (n / 2)) i) = f i := by
  have hstages : logWidth n - 1 < logWidth n := Nat.sub_one_lt (hw.log_pos heven).ne'
  rw [unshfl_eq_unshflStages, ← hw.shuffleAddr_eq_unperm heven _ hi, getLsbD_unshflStages hw b hstages hi, ha i hi]

end

/-! ## The crossbar (R220) -/

section
variable {n p : Nat}

/-- Element `e` of `b`, as a number: the index of the element of `a` that xperm puts there. -/
def xpermIndex (p : Nat) (b : BitVec n) (e : Nat) : Nat := b.toNat / 2 ^ (2 ^ p * e) % 2 ^ 2 ^ p

/-- Bit `k` of xperm: the bit at the same place of the element indexed, 0 if there is none. -/
def xpermBit (p : Nat) (a b : BitVec n) (k : Nat) : Bool :=
  decide (xpermIndex p b (k / 2 ^ p) < n / 2 ^ p) && a.getLsbD (2 ^ p * xpermIndex p b (k / 2 ^ p) + k % 2 ^ p)

/-- The first `t` elements of xperm, zeros above. -/
def xpermElements (p : Nat) (a b : BitVec n) (t : Nat) : BitVec n :=
  (List.range t).foldl
    (fun r e =>
      let idx := (b.extractLsb' (e * 2 ^ p) (2 ^ p)).toNat
      if idx < n / 2 ^ p then r ||| ((a.extractLsb' (idx * 2 ^ p) (2 ^ p)).setWidth n <<< (e * 2 ^ p)) else r)
    0#n

theorem xperm_eq_xpermElements (a b : BitVec n) : xperm p a b = xpermElements p a b (n / 2 ^ p) := rfl

theorem toNat_extractLsb'_eq_xpermIndex (b : BitVec n) (e : Nat) :
    (b.extractLsb' (e * 2 ^ p) (2 ^ p)).toNat = xpermIndex p b e := by
  rw [BitVec.extractLsb'_toNat, Nat.shiftRight_eq_div_pow, Nat.mul_comm, xpermIndex]

theorem xpermElements_succ (a b : BitVec n) (t : Nat) : xpermElements p a b (t + 1) =
    if xpermIndex p b t < n / 2 ^ p then
      xpermElements p a b t ||| ((a.extractLsb' (xpermIndex p b t * 2 ^ p) (2 ^ p)).setWidth n <<< (t * 2 ^ p))
    else xpermElements p a b t := by
  rw [xpermElements, List.range_succ, List.foldl_append, List.foldl_cons, List.foldl_nil,
    toNat_extractLsb'_eq_xpermIndex]
  rfl

/-- An element of `a` put at element `t` has bits there only. -/
theorem getLsbD_element (a : BitVec n) (idx t : Nat) {k : Nat} (hk : k < n) :
    ((a.extractLsb' (idx * 2 ^ p) (2 ^ p)).setWidth n <<< (t * 2 ^ p)).getLsbD k =
      (decide (k / 2 ^ p = t) && a.getLsbD (2 ^ p * idx + k % 2 ^ p)) := by
  have hinside : k - t * 2 ^ p < n := by omega
  rw [BitVec.getLsbD_shiftLeft, BitVec.getLsbD_setWidth, BitVec.getLsbD_extractLsb', decide_eq_true hk,
    decide_eq_true hinside, Bool.true_and, Bool.true_and, ← Bool.and_assoc]
  by_cases ht : k / 2 ^ p = t
  · have hplace : k - t * 2 ^ p = k % 2 ^ p := by rw [← ht, Nat.mod_eq_sub_div_mul]
    have hge : ¬k < t * 2 ^ p := by rw [← ht]; exact (Nat.div_mul_le_self k _).not_gt
    have hlt : k % 2 ^ p < 2 ^ p := Nat.mod_lt _ (by positivity)
    simp [ht, hplace, hge, hlt, Nat.mul_comm]
  · have hother : ¬(t * 2 ^ p ≤ k ∧ k < (t + 1) * 2 ^ p) := fun h => ht (Nat.div_eq_of_lt_le h.1 h.2)
    have hoff : (!decide (k < t * 2 ^ p) && decide (k - t * 2 ^ p < 2 ^ p)) = false := by
      rw [Nat.add_one_mul] at hother
      grind
    rw [hoff, decide_eq_false ht, Bool.false_and, Bool.false_and]

/-- One more element adds its bits. -/
theorem getLsbD_xpermElements_succ (a b : BitVec n) (t : Nat) {k : Nat} (hk : k < n) :
    (xpermElements p a b (t + 1)).getLsbD k =
      ((xpermElements p a b t).getLsbD k || (decide (k / 2 ^ p = t) && xpermBit p a b k)) := by
  rw [xpermElements_succ]
  by_cases hlast : k / 2 ^ p = t
  · rw [← hlast, xpermBit]
    split
    next hin => rw [BitVec.getLsbD_or, getLsbD_element _ _ _ hk, decide_eq_true hin, Bool.true_and]
    next hout => rw [decide_eq_false hout, Bool.false_and, Bool.and_false, Bool.or_false]
  · rw [decide_eq_false hlast, Bool.false_and, Bool.or_false]
    split
    next => rw [BitVec.getLsbD_or, getLsbD_element _ _ _ hk, decide_eq_false hlast, Bool.false_and, Bool.or_false]
    next => rfl

/-- The first `t` elements have their bits, and the others zeros. -/
theorem getLsbD_xpermElements (a b : BitVec n) (t : Nat) {k : Nat} (hk : k < n) :
    (xpermElements p a b t).getLsbD k = (decide (k / 2 ^ p < t) && xpermBit p a b k) := by
  induction t with
  | zero => simp [xpermElements]
  | succ t ih =>
    have hsplit : decide (k / 2 ^ p < t + 1) = (decide (k / 2 ^ p < t) || decide (k / 2 ^ p = t)) := by
      rw [← Bool.decide_or, decide_eq_decide, Nat.lt_succ_iff_lt_or_eq]
    rw [getLsbD_xpermElements_succ a b t hk, ih, hsplit, Bool.and_or_distrib_right]

/-- xperm puts the element indexed at every element, all of them lying inside the word. -/
theorem getLsbD_xperm (hp : 2 ^ p ∣ n) (a b : BitVec n) {k : Nat} (hk : k < n) :
    (xperm p a b).getLsbD k = xpermBit p a b k := by
  have hinside : k / 2 ^ p < n / 2 ^ p := Nat.div_lt_div_of_lt_of_dvd hp hk
  rw [xperm_eq_xpermElements, getLsbD_xpermElements a b _ hk, decide_eq_true hinside, Bool.true_and]

end

/-- Elements of up to 32 bits fill a register without a rest. -/
theorem State.two_pow_dvd_bits (s : State) {p : Nat} (hp : p ≤ 5) : 2 ^ p ∣ s.xlen.bits := by
  have hword : 2 ^ 5 ∣ s.xlen.bits := by cases s.xlen <;> decide
  exact (Nat.pow_dvd_pow 2 hp).trans hword

/-- A crossbar instruction ends with the bits of xperm. -/
theorem State.done_xperm (s : State) (rd rs1 rs2 : Reg) {p : Nat} (hp : p ≤ 5) :
    s.done rd (xperm p (s.x rs1) (s.x rs2)) = .next (s.retire rd (bitsOf _ (xpermBit p (s.x rs1) (s.x rs2)))) :=
  State.done_bitsOf fun _ => getLsbD_xperm (s.two_pow_dvd_bits hp) _ _

end Sys2Proof.Machine
end

section
/-!
The statements of 43_shuffle_and_xperm.md: the result of each instruction.
-/
namespace Sys2Proof.Machine

/-- Settles O34: the register and the immediate form differ in where the control word comes from only. -/
theorem shuffleBits : Obligations.ShuffleBits := by
  intro s rd rs1 rs2 imm
  have hw := stagedWidth_bits s.xlen
  have ha : ∀ k < s.xlen.bits, (s.x rs1).getLsbD k = s.bit rs1 k := fun k _ => s.getLsbD_x rs1 k
  exact ⟨State.done_bitsOf fun _ => getLsbD_shfl hw s.two_dvd_bits ha _,
    State.done_bitsOf fun _ => getLsbD_shfl hw s.two_dvd_bits ha _⟩

/-- Settles O35: as for shfl, each bit followed to where it goes. -/
theorem unshuffleBits : Obligations.UnshuffleBits := by
  intro s rd rs1 rs2 imm
  have hw := stagedWidth_bits s.xlen
  have ha : ∀ k < s.xlen.bits, (s.x rs1).getLsbD k = s.bit rs1 k := fun k _ => s.getLsbD_x rs1 k
  exact ⟨⟨_, rfl, fun _ => getLsbD_unshfl hw s.two_dvd_bits ha _⟩,
    ⟨_, rfl, fun _ => getLsbD_unshfl hw s.two_dvd_bits ha _⟩⟩

/-- Settles O36: the same bits at 32, from the low word. -/
theorem shuffleWordBits : Obligations.ShuffleWordBits := by
  intro s rd rs1 rs2 hx
  have haw : ∀ k < 32, (s.xw rs1).getLsbD k = s.bit rs1 k := fun _ => s.getLsbD_xw rs1
  exact ⟨State.onRv64_doneW_bitsOf hx _ fun _ => getLsbD_shfl stagedWidth_32 (by decide) haw _,
    ⟨_, State.onRv64_doneW_of_eq hx _ rfl, fun _ => getLsbD_unshfl stagedWidth_32 (by decide) haw _⟩⟩

/-- Settles O37: the four instructions differ in the size of the elements only. -/
theorem crossbar : Obligations.Crossbar := by
  rintro s rd rs1 rs2 i z (hmem | ⟨rfl, rfl, hx⟩)
  · simp only [List.mem_cons, Prod.mk.injEq, List.not_mem_nil, or_false] at hmem
    obtain ⟨rfl, rfl⟩ | ⟨rfl, rfl⟩ | ⟨rfl, rfl⟩ := hmem
    · exact s.done_xperm rd rs1 rs2 (p := 2) (by decide)
    · exact s.done_xperm rd rs1 rs2 (p := 3) (by decide)
    · exact s.done_xperm rd rs1 rs2 (p := 4) (by decide)
  · exact (State.onRv64_rv64 hx _ _).trans (s.done_xperm rd rs1 rs2 (p := 5) (by decide))

end Sys2Proof.Machine
end

section
/-!
SUPPORT. The bits of each operation of 44_bfp_bext_bdep.md. As for 41, each rule takes the bits of its source words as
functions, so that it serves registers and low words of registers alike.
-/
namespace Sys2Proof.Machine

/-! ## Bit-field place (R240) -/

section
variable {n : Nat}

/-- A register of RV32, or a low word, has the configuration in its upper half. -/
theorem bfpConfig_of_eq_32 (hn : n = 32) (b : BitVec n) : bfpConfig b = b.toNat / 2 ^ 16 := by
  subst hn
  simp [bfpConfig]

/-- A register of RV64 has it in its upper half, or in the upper half of that if SEL is 10. -/
theorem bfpConfig_of_eq_64 (hn : n = 64) (b : BitVec n) :
    bfpConfig b = if b.toNat / 2 ^ 62 = 2 then b.toNat / 2 ^ 48 else b.toNat / 2 ^ 32 := by
  subst hn
  simp only [bfpConfig, true_and, Nat.div_div_eq_div_mul]
  rfl

/-- OFF in the layout of RV32. -/
theorem bfpOffset_of_eq_32 (hn : n = 32) (b : BitVec n) : bfpOffset b = b.toNat / 2 ^ 16 % 32 := by
  rw [bfpOffset, bfpConfig_of_eq_32 hn]
  subst hn
  rfl

/-- LEN in the layout of RV32. -/
theorem bfpLength_of_eq_32 (hn : n = 32) (b : BitVec n) :
    bfpLength b = if b.toNat / 2 ^ 24 % 16 = 0 then 16 else b.toNat / 2 ^ 24 % 16 := by
  rw [bfpLength, bfpConfig_of_eq_32 hn, Nat.div_div_eq_div_mul]
  subst hn
  rfl

/-- OFF on RV64, of the configuration that SEL chooses. -/
theorem bfpOffset_of_eq_64 (hn : n = 64) (b : BitVec n) : bfpOffset b = bfpConfig b % 64 := by
  subst hn
  rfl

/-- LEN on RV64, likewise. -/
theorem bfpLength_of_eq_64 (hn : n = 64) (b : BitVec n) :
    bfpLength b = if bfpConfig b / 2 ^ 8 % 32 = 0 then 32 else bfpConfig b / 2 ^ 8 % 32 := by
  subst hn
  rfl

/-- The mask of bfp covers the field from `off` up, as far as the word goes. -/
theorem getLsbD_ones_shiftLeft (len off : Nat) {k : Nat} (hk : k < n) :
    (BitVec.ofNat n (2 ^ len - 1) <<< off).getLsbD k = decide (off ≤ k ∧ k < off + len) := by
  have hplace : k - off < n := by omega
  rw [BitVec.getLsbD_shiftLeft, BitVec.getLsbD_ofNat, Nat.testBit_two_pow_sub_one, decide_eq_true hk,
    decide_eq_true hplace, Bool.true_and, Bool.true_and, ← decide_not, ← Bool.decide_and, decide_eq_decide]
  omega

/-- bfp has the low bits of the control word inside the field, and the bits of the other word outside it. -/
theorem getLsbD_bfp {a b : BitVec n} {f g : Nat → Bool} (ha : ∀ j < n, a.getLsbD j = f j)
    (hb : ∀ j < n, b.getLsbD j = g j) {k : Nat} (hk : k < n) : (bfp a b).getLsbD k =
      if bfpOffset b ≤ k ∧ k < bfpOffset b + bfpLength b then g (k - bfpOffset b) else f k := by
  rw [bfp, BitVec.getLsbD_or, BitVec.getLsbD_and, BitVec.getLsbD_and, getLsbD_not_of_lt _ hk,
    getLsbD_ones_shiftLeft _ _ hk, BitVec.getLsbD_shiftLeft, hb _ (by omega), ha k hk]
  split
  next hin => simp [hk, hin, hin.1.not_gt]
  next hout => simp [hout]

end

/-- The low word of a register, as a number. -/
theorem State.toNat_xw (s : State) (r : Reg) : (s.xw r).toNat = (s.x r).toNat % 2 ^ 32 :=
  BitVec.toNat_setWidth ..

/-- OFF of the control word that bfpw takes from a low word. -/
theorem State.bfpOffset_xw (s : State) (r : Reg) : bfpOffset (s.xw r) = (s.x r).toNat / 2 ^ 16 % 32 := by
  rw [bfpOffset_of_eq_32 rfl, State.toNat_xw]
  omega

/-- LEN of the control word that bfpw takes from a low word. -/
theorem State.bfpLength_xw (s : State) (r : Reg) :
    bfpLength (s.xw r) = if (s.x r).toNat / 2 ^ 24 % 16 = 0 then 16 else (s.x r).toNat / 2 ^ 24 % 16 := by
  have hfield : (s.x r).toNat % 2 ^ 32 / 2 ^ 24 % 16 = (s.x r).toNat / 2 ^ 24 % 16 := by omega
  rw [bfpLength_of_eq_32 rfl, State.toNat_xw, hfield]

/-! ## Counts of mask bits (R245) -/

section
variable {f : Nat → Bool}

/-- Counting further never loses a bit. -/
theorem countBits_mono : Monotone fun n => countBits n f :=
  monotone_nat_of_le_succ fun _ => Nat.le_add_right _ _

/-- No more bits are counted than there are positions. -/
theorem countBits_le (n : Nat) (f : Nat → Bool) : countBits n f ≤ n :=
  countP_range_eq_countBits n f ▸ List.countP_le_length.trans_eq List.length_range

/-- A mask bit has its own number: counting past it counts one more. -/
theorem countBits_lt_countBits {k n : Nat} (hk : k < n) (hf : f k = true) : countBits k f < countBits n f :=
  calc
    countBits k f < countBits (k + 1) f := by simp [countBits, hf]
    _ ≤ countBits n f := countBits_mono hk

end

/-! ## The scans of bext and bdep (R245)

Both go up the mask, and at each mask bit set one bit of the result if the source has one there. bext reads at the position
and writes at the count of mask bits so far, bdep reads at the count and writes at the position. -/

section
variable {n : Nat}

/-- The word and the count of mask bits after the first `t` positions of `b`, reading `a` at `src i c` and writing at
`dst i c` at the mask bit with position `i` and number `c`. -/
def maskScan (src dst : Nat → Nat → Nat) (a b : BitVec n) (t : Nat) : BitVec n × Nat :=
  (List.range t).foldl
    (fun r i =>
      if b.getLsbD i then (if a.getLsbD (src i r.2) then r.1 ||| (1#n <<< dst i r.2) else r.1, r.2 + 1) else r)
    (0#n, 0)

/-- The word after the first `t` positions of bext. -/
def bextScan (a b : BitVec n) (t : Nat) : BitVec n := (maskScan (fun i _ => i) (fun _ c => c) a b t).1

/-- The word after the first `t` positions of bdep. -/
def bdepScan (a b : BitVec n) (t : Nat) : BitVec n := (maskScan (fun _ c => c) (fun i _ => i) a b t).1

theorem bext_eq_bextScan (a b : BitVec n) : bext a b = bextScan a b n := rfl

theorem bdep_eq_bdepScan (a b : BitVec n) : bdep a b = bdepScan a b n := rfl

section
variable (src dst : Nat → Nat → Nat) (a b : BitVec n)

theorem maskScan_succ (t : Nat) : maskScan src dst a b (t + 1) =
    if b.getLsbD t then
      (if a.getLsbD (src t (maskScan src dst a b t).2) then
          (maskScan src dst a b t).1 ||| (1#n <<< dst t (maskScan src dst a b t).2)
        else (maskScan src dst a b t).1,
        (maskScan src dst a b t).2 + 1)
    else maskScan src dst a b t := by
  rw [maskScan, List.range_succ, List.foldl_append]
  rfl

theorem maskScan_snd (t : Nat) : (maskScan src dst a b t).2 = countBits t b.getLsbD := by
  induction t with
  | zero => rfl
  | succ t ih =>
    rw [maskScan_succ, countBits, ← ih]
    cases b.getLsbD t <;> rfl

/-- Setting a bit or not. -/
theorem getLsbD_ite_or_one_shiftLeft (v : BitVec n) (c : Bool) {p : Nat} (hp : p < n) (k : Nat) :
    (if c = true then v ||| (1#n <<< p) else v).getLsbD k = (v.getLsbD k || (c && decide (p = k))) := by
  cases c
  · simp
  · rw [if_pos rfl, BitVec.getLsbD_or, ← BitVec.twoPow_eq, BitVec.getLsbD_twoPow, decide_eq_true hp]

/-- One more position may set the bit it writes at, if that is a bit of the word. -/
theorem getLsbD_maskScan_succ {t : Nat} (hdst : dst t (countBits t b.getLsbD) < n) (k : Nat) :
    (maskScan src dst a b (t + 1)).1.getLsbD k = ((maskScan src dst a b t).1.getLsbD k ||
      (b.getLsbD t && a.getLsbD (src t (countBits t b.getLsbD)) && decide (dst t (countBits t b.getLsbD) = k))) := by
  rw [maskScan_succ, maskScan_snd]
  cases b.getLsbD t
  · simp
  · exact getLsbD_ite_or_one_shiftLeft _ _ hdst k

end

variable (a b : BitVec n)

/-- One more position of bext may set the bit with the number of the mask bit. -/
theorem getLsbD_bextScan_succ {t : Nat} (ht : t < n) (k : Nat) : (bextScan a b (t + 1)).getLsbD k =
    ((bextScan a b t).getLsbD k || (b.getLsbD t && a.getLsbD t && decide (countBits t b.getLsbD = k))) :=
  getLsbD_maskScan_succ _ _ a b ((countBits_le t _).trans_lt ht) k

/-- One more position of bdep may set the bit at that position. -/
theorem getLsbD_bdepScan_succ {t : Nat} (ht : t < n) (k : Nat) : (bdepScan a b (t + 1)).getLsbD k =
    ((bdepScan a b t).getLsbD k || (b.getLsbD t && a.getLsbD (countBits t b.getLsbD) && decide (t = k))) :=
  getLsbD_maskScan_succ _ _ a b ht k

/-- Bits with a number not yet reached are zero. -/
theorem getLsbD_bextScan_of_countBits_le {t : Nat} (ht : t ≤ n) {k : Nat} (hk : countBits t b.getLsbD ≤ k) :
    (bextScan a b t).getLsbD k = false := by
  induction t with
  | zero => exact BitVec.getLsbD_zero
  | succ t ih =>
    rw [getLsbD_bextScan_succ a b ht, ih (by omega) ((countBits_mono t.le_succ).trans hk), Bool.false_or]
    cases hbit : b.getLsbD t with
    | false => rfl
    | true =>
      have hbelow : countBits t b.getLsbD < k := (countBits_lt_countBits t.lt_succ_self hbit).trans_le hk
      rw [decide_eq_false hbelow.ne, Bool.and_false]

/-- The source bit at a mask position passed stands at the number of the mask bit. -/
theorem getLsbD_bextScan {t : Nat} (ht : t ≤ n) {k : Nat} (hk : k < t) (hbit : b.getLsbD k = true) :
    (bextScan a b t).getLsbD (countBits k b.getLsbD) = a.getLsbD k := by
  induction t with
  | zero => exact absurd hk (Nat.not_lt_zero k)
  | succ t ih =>
    rw [getLsbD_bextScan_succ a b ht]
    rcases Nat.lt_succ_iff_lt_or_eq.mp hk with hpassed | rfl
    · rw [ih (by omega) hpassed, decide_eq_false (countBits_lt_countBits hpassed hbit).ne', Bool.and_false, Bool.or_false]
    · rw [getLsbD_bextScan_of_countBits_le a b (by omega) le_rfl, hbit]
      simp

/-- At the positions passed bdep has placed their bits, and zeros above. -/
theorem getLsbD_bdepScan {t : Nat} (ht : t ≤ n) (k : Nat) : (bdepScan a b t).getLsbD k =
    (decide (k < t) && (b.getLsbD k && a.getLsbD (countBits k b.getLsbD))) := by
  induction t with
  | zero => simp [bdepScan, maskScan]
  | succ t ih =>
    rw [getLsbD_bdepScan_succ a b ht, ih (by omega)]
    rcases lt_trichotomy k t with hpassed | rfl | habove
    · simp [hpassed, hpassed.ne', hpassed.trans t.lt_succ_self]
    · simp
    · simp [habove.not_gt, habove.ne, Nat.not_lt.mpr (Nat.succ_le_of_lt habove)]

end

/-! ## Bit extract and deposit, bit by bit (R245) -/

section
variable {n : Nat} {a b : BitVec n} {f g : Nat → Bool}

/-- The mask bits below a position of the word, counted in the statements' functions. -/
theorem countBits_getLsbD_eq (hb : ∀ j < n, b.getLsbD j = g j) {k : Nat} (hk : k ≤ n) :
    countBits k b.getLsbD = countBits k g :=
  countBits_congr fun j hj => hb j (hj.trans_le hk)

/-- bext puts the bit at a mask position where the number of the mask bit says. -/
theorem getLsbD_bext (ha : ∀ j < n, a.getLsbD j = f j) (hb : ∀ j < n, b.getLsbD j = g j) :
    ∀ k < n, g k = true → (bext a b).getLsbD (countBits k g) = f k := by
  intro k hk hbit
  rw [bext_eq_bextScan, ← countBits_getLsbD_eq hb hk.le, getLsbD_bextScan a b le_rfl hk ((hb k hk).trans hbit), ha k hk]

/-- bext has zeros above its bits. -/
theorem getLsbD_bext_of_countBits_le (hb : ∀ j < n, b.getLsbD j = g j) :
    ∀ k, countBits n g ≤ k → (bext a b).getLsbD k = false := fun _ hk =>
  getLsbD_bextScan_of_countBits_le a b le_rfl ((countBits_getLsbD_eq hb le_rfl).trans_le hk)

/-- bdep has at a mask position the bit that the number of the mask bit names. -/
theorem getLsbD_bdep (ha : ∀ j < n, a.getLsbD j = f j) (hb : ∀ j < n, b.getLsbD j = g j) {k : Nat} (hk : k < n) :
    (bdep a b).getLsbD k = (g k && f (countBits k g)) := by
  rw [bdep_eq_bdepScan, getLsbD_bdepScan a b le_rfl, decide_eq_true hk, Bool.true_and, hb k hk,
    countBits_getLsbD_eq hb hk.le, ha _ ((countBits_le k g).trans_lt hk)]

end

end Sys2Proof.Machine
end

section
/-!
The statements of 44_bfp_bext_bdep.md: the result of each instruction.
-/
namespace Sys2Proof.Machine

/-- Settles O38: the field of the operation is the one of the RV32 layout. -/
theorem bitFieldPlaceRv32 : Obligations.BitFieldPlaceRv32 := by
  intro s rd rs1 rs2 off len hx hoff hlen
  have hn : s.xlen.bits = 32 := congrArg Xlen.bits hx
  rw [← bfpOffset_of_eq_32 hn] at hoff
  rw [← bfpLength_of_eq_32 hn] at hlen
  subst hoff hlen
  exact State.done_bitsOf fun _ => getLsbD_bfp (fun k _ => s.getLsbD_x rs1 k) fun k _ => s.getLsbD_x rs2 k

/-- Settles O39: for bfp the layout that SEL chooses, for bfpw the RV32 layout of the low word. -/
theorem bitFieldPlaceRv64 : Obligations.BitFieldPlaceRv64 := by
  intro s rd rs1 rs2 c off len offw lenw hx hc hoff hlen hoffw hlenw
  have hn : s.xlen.bits = 64 := congrArg Xlen.bits hx
  rw [← bfpConfig_of_eq_64 hn] at hc
  rw [hc, ← bfpOffset_of_eq_64 hn] at hoff
  rw [hc, ← bfpLength_of_eq_64 hn] at hlen
  rw [← s.bfpOffset_xw] at hoffw
  rw [← s.bfpLength_xw] at hlenw
  subst hoff hlen hoffw hlenw
  exact ⟨State.done_bitsOf fun _ => getLsbD_bfp (fun k _ => s.getLsbD_x rs1 k) fun k _ => s.getLsbD_x rs2 k,
    State.onRv64_doneW_bitsOf hx _ fun _ => getLsbD_bfp (fun _ => s.getLsbD_xw rs1) fun _ => s.getLsbD_xw rs2⟩

/-- Settles O40: the bits of the words and of the low words, gathered alike. -/
theorem bitExtract : Obligations.BitExtract := by
  intro s rd rs1 rs2
  have hb : ∀ k < s.xlen.bits, (s.x rs2).getLsbD k = s.bit rs2 k := fun k _ => s.getLsbD_x rs2 k
  have hbw : ∀ k < 32, (s.xw rs2).getLsbD k = s.bit rs2 k := fun _ => s.getLsbD_xw rs2
  exact ⟨⟨_, rfl, getLsbD_bext (fun k _ => s.getLsbD_x rs1 k) hb, getLsbD_bext_of_countBits_le hb⟩, fun hx =>
    ⟨_, State.onRv64_doneW_of_eq hx _ rfl, getLsbD_bext (fun _ => s.getLsbD_xw rs1) hbw,
      getLsbD_bext_of_countBits_le hbw⟩⟩

/-- Settles O41: the bits of the words and of the low words, scattered alike. -/
theorem bitDeposit : Obligations.BitDeposit := by
  intro s rd rs1 rs2
  exact ⟨State.done_bitsOf fun _ => getLsbD_bdep (fun k _ => s.getLsbD_x rs1 k) fun k _ => s.getLsbD_x rs2 k, fun hx =>
    State.onRv64_doneW_bitsOf hx _ fun _ => getLsbD_bdep (fun _ => s.getLsbD_xw rs1) fun _ => s.getLsbD_xw rs2⟩

end Sys2Proof.Machine
end

section
/-!
SUPPORT. What each operation of 45_clmul_crc_bmat.md is: the carry-less product and the bit matrices bit by bit, the CRC round
by round.
-/
namespace Sys2Proof.Machine

/-! ## The carry-less product (R260) -/

section
variable {n : Nat} (a b : BitVec n)

/-- The part of the carry-less product that the first `t` bits of `b` give. -/
def clmulScan (t : Nat) : BitVec (2 * n) :=
  (List.range t).foldl (fun p i => if b.getLsbD i then p ^^^ (a.setWidth (2 * n) <<< i) else p) 0#(2 * n)

theorem clmulProduct_eq_clmulScan : clmulProduct a b = clmulScan a b n := rfl

theorem clmulScan_succ (t : Nat) : clmulScan a b (t + 1) =
    if b.getLsbD t then clmulScan a b t ^^^ (a.setWidth (2 * n) <<< t) else clmulScan a b t := by
  rw [clmulScan, List.range_succ, List.foldl_append]
  rfl

/-- A shift of `a` by at most its width keeps all its bits inside the double word. -/
theorem getLsbD_setWidth_shiftLeft {t : Nat} (ht : t ≤ n) (k : Nat) :
    (a.setWidth (2 * n) <<< t).getLsbD k = (decide (t ≤ k) && a.getLsbD (k - t)) := by
  rw [BitVec.getLsbD_shiftLeft, BitVec.getLsbD_setWidth]
  by_cases hin : k - t < n
  · have hk : k < 2 * n := by omega
    have hsource : k - t < 2 * n := by omega
    simp [hk, hsource, ← decide_not]
  · simp [BitVec.getLsbD_of_ge a _ (not_lt.mp hin)]

theorem getLsbD_clmulScan {t : Nat} (ht : t ≤ n) (k : Nat) :
    (clmulScan a b t).getLsbD k = xorBits t fun j => decide (j ≤ k) && b.getLsbD j && a.getLsbD (k - j) := by
  induction t with
  | zero => exact BitVec.getLsbD_zero
  | succ t ih =>
    rw [clmulScan_succ, xorBits, ← ih (by omega)]
    cases b.getLsbD t
    · simp
    · rw [if_pos rfl, BitVec.getLsbD_xor, getLsbD_setWidth_shiftLeft a (by omega), Bool.and_true]

/-- Bit k of the carry-less product joins the pairs of bits whose positions add up to k. -/
theorem getLsbD_clmulProduct (k : Nat) :
    (clmulProduct a b).getLsbD k = xorBits n fun j => decide (j ≤ k) && b.getLsbD j && a.getLsbD (k - j) := by
  rw [clmulProduct_eq_clmulScan, getLsbD_clmulScan a b le_rfl]

theorem getLsbD_clmul {k : Nat} (hk : k < n) : (clmul a b).getLsbD k = (clmulProduct a b).getLsbD k := by
  rw [clmul, BitVec.getLsbD_extractLsb', decide_eq_true hk, Bool.true_and, Nat.zero_add]

theorem getLsbD_clmulh {k : Nat} (hk : k < n) : (clmulh a b).getLsbD k = (clmulProduct a b).getLsbD (n + k) := by
  rw [clmulh, BitVec.getLsbD_extractLsb', decide_eq_true hk, Bool.true_and]

theorem getLsbD_clmulr {k : Nat} (hk : k < n) : (clmulr a b).getLsbD k = (clmulProduct a b).getLsbD (n - 1 + k) := by
  rw [clmulr, BitVec.getLsbD_extractLsb', decide_eq_true hk, Bool.true_and]

end

/-! ## The CRC round (R270) -/

section
variable {n : Nat} (poly : BitVec 32)

/-- One round: a shift right, and the polynomial if the bit shifted out is 1. -/
def crcRound (x : BitVec n) : BitVec n := if x.getLsbD 0 then (x >>> 1) ^^^ poly.setWidth n else x >>> 1

/-- A round, with the polynomial as a number. -/
theorem crcRound_eq : crcRound (n := n) poly =
    fun x => if x.getLsbD 0 then (x >>> 1) ^^^ BitVec.ofNat n poly.toNat else x >>> 1 := by
  funext x
  rw [crcRound, BitVec.ofNat_toNat]

/-- The first of several rounds. -/
theorem crc_succ (k : Nat) (x : BitVec n) : crc poly (k + 1) x = crc poly k (crcRound poly x) := by
  rw [crc, crcRound]
  cases x.getLsbD 0
  · simp
  · rfl

/-- The last of several rounds. -/
theorem crc_succ_eq_crcRound (k : Nat) (x : BitVec n) : crc poly (k + 1) x = crcRound poly (crc poly k x) := by
  induction k generalizing x with
  | zero => exact crc_succ poly 0 x
  | succ k ih => rw [crc_succ, ih, ← crc_succ]

theorem crc_eq_repeat (k : Nat) (x : BitVec n) : crc poly k x = Nat.repeat (crcRound poly) k x := by
  induction k with
  | zero => rfl
  | succ k ih => rw [crc_succ_eq_crcRound, ih, Nat.repeat]

end

/-! ## Bit matrices (R285) -/

theorem getLsbD_bmatOf (f : Nat → Nat → Bool) {k : Nat} (hk : k < 64) : (bmatOf f).getLsbD k = f (k / 8) (k % 8) := by
  rw [bmatOf, getLsbD_bitsOf, decide_eq_true hk, Bool.true_and]

/-- The sum of bmatxor, in the statements' function. -/
theorem foldl_bne_range_eq_xorBits (n : Nat) (f : Nat → Bool) :
    (List.range n).foldl (fun acc k => acc != f k) false = xorBits n f := by
  induction n with
  | zero => rfl
  | succ n ih =>
    rw [List.range_succ, List.foldl_append, ih]
    rfl

/-- The sum of bmator, in the statements' function. -/
theorem any_range_eq_orBits (n : Nat) (f : Nat → Bool) : (List.range n).any f = orBits n f := by
  rw [Bool.eq_iff_iff, orBits_eq_true_iff, List.any_eq_true]
  simp only [List.mem_range]

section
variable {s : State} (hx : s.xlen = .rv64)
include hx

/-- On RV64 the matrix that an instruction reads is the whole register. -/
theorem State.bmatElem_x (r : Reg) (i j : Nat) : bmatElem ((s.x r).setWidth 64) i j = s.bit r (8 * i + j) := by
  have hn : s.xlen.bits = 64 := congrArg Xlen.bits hx
  rw [bmatElem, BitVec.getLsbD_setWidth, s.getLsbD_x]
  by_cases hin : 8 * i + j < 64
  · rw [decide_eq_true hin, Bool.true_and]
  · rw [State.bit, BitVec.getLsbD_of_ge _ _ (by omega), Bool.and_false]

/-- A matrix instruction on RV64 ends with the word whose bit 8r + c is the element (r, c). -/
theorem State.onRv64_done_bmatOf (i : Instr) (rd : Reg) {f : Nat → Nat → Bool} {g : Nat → Bool}
    (h : ∀ k, f (k / 8) (k % 8) = g k) :
    s.onRv64 i (s.done rd ((bmatOf f).setWidth _)) = .next (s.retire rd (bitsOf _ g)) := by
  have hn : s.xlen.bits = 64 := congrArg Xlen.bits hx
  rw [State.onRv64_rv64 hx]
  refine State.done_bitsOf fun k hk => ?_
  rw [BitVec.getLsbD_setWidth, decide_eq_true hk, Bool.true_and, getLsbD_bmatOf f (by omega), h]

end

end Sys2Proof.Machine
end

section
/-!
SUPPORT. Barrett reduction (45_clmul_crc_bmat.md R279). A word stands for a polynomial over GF(2), bit k for the coefficient at
X^k. A carry-less multiply is then a product, and a CRC a division from the lowest bit up. The polynomials are taken as power
series, so that the low n bits are a residue modulo X^n.
-/
namespace Sys2Proof.Machine

/-! ## Bits as elements of GF(2) -/

/-- The element 0 or 1. -/
def gf2 (c : Bool) : ZMod 2 := if c then 1 else 0

@[simp] theorem gf2_false : gf2 false = 0 := rfl

@[simp] theorem gf2_true : gf2 true = 1 := rfl

theorem gf2_injective : Function.Injective gf2 := by decide

theorem gf2_xor : ∀ c d : Bool, gf2 (c ^^ d) = gf2 c + gf2 d := by decide

theorem gf2_xorBits (n : Nat) (f : Nat → Bool) : gf2 (xorBits n f) = ∑ j ∈ Finset.range n, gf2 (f j) := by
  induction n with
  | zero => rfl
  | succ n ih => rw [xorBits, gf2_xor, ih, Finset.sum_range_succ]

/-! ## Words as polynomials -/

section
open PowerSeries
variable {n : Nat}

/-- The polynomial of a word. -/
def series (v : BitVec n) : PowerSeries (ZMod 2) := .mk fun k => gf2 (v.getLsbD k)

@[simp] theorem coeff_series (v : BitVec n) (k : Nat) : coeff k (series v) = gf2 (v.getLsbD k) := coeff_mk ..

theorem coeff_series_of_ge (v : BitVec n) {k : Nat} (hk : n ≤ k) : coeff k (series v) = 0 := by
  rw [coeff_series, BitVec.getLsbD_of_ge v k hk]
  rfl

theorem series_of_length_zero (v : BitVec 0) : series v = 0 :=
  PowerSeries.ext fun k => coeff_series_of_ge v k.zero_le

theorem series_one (hn : 0 < n) : series 1#n = 1 := by
  ext k
  rw [coeff_series, BitVec.getLsbD_one, coeff_one, decide_eq_true hn, Bool.true_and, gf2]
  simp only [decide_eq_true_eq]

theorem series_xor (v w : BitVec n) : series (v ^^^ w) = series v + series w := by
  ext k
  rw [map_add, coeff_series, coeff_series, coeff_series, BitVec.getLsbD_xor, gf2_xor]

/-- A bit put below a word is the coefficient at X^0. -/
theorem series_concat (v : BitVec n) (c : Bool) : series (v.concat c) = C (gf2 c) + X * series v := by
  ext k
  rw [map_add, coeff_series, BitVec.getLsbD_concat]
  cases k with
  | zero => simp
  | succ k => simp [coeff_succ_X_mul, coeff_succ_C]

theorem series_eq_sum (v : BitVec n) : series v = ∑ j ∈ Finset.range n, C (gf2 (v.getLsbD j)) * X ^ j := by
  ext k
  simp only [map_sum, coeff_C_mul_X_pow, Finset.sum_ite_eq, Finset.mem_range]
  split
  next => exact coeff_series v k
  next hk => exact coeff_series_of_ge v (not_lt.mp hk)

/-- The carry-less product is the product of the polynomials. -/
theorem series_clmulProduct (a b : BitVec n) : series (clmulProduct a b) = series a * series b := by
  ext k
  rw [coeff_series, getLsbD_clmulProduct, gf2_xorBits, series_eq_sum b, Finset.mul_sum, map_sum]
  refine Finset.sum_congr rfl fun j _ => ?_
  rw [mul_left_comm, coeff_C_mul, coeff_mul_X_pow', coeff_series]
  by_cases hj : j ≤ k <;> cases b.getLsbD j <;> simp [hj]

/-! ## Residues modulo X^n -/

/-- A word is the residue of a polynomial if its bits are the low coefficients. -/
theorem X_pow_dvd_sub_series {v : BitVec n} {p : PowerSeries (ZMod 2)} (h : ∀ k < n, coeff k p = gf2 (v.getLsbD k)) :
    X ^ n ∣ p - series v :=
  X_pow_dvd_iff.mpr fun k hk => by rw [map_sub, coeff_series, h k hk, sub_self]

/-- A word is determined by its residue. -/
theorem eq_of_X_pow_dvd_series_sub {v w : BitVec n} (h : X ^ n ∣ series v - series w) : v = w := by
  refine BitVec.eq_of_getLsbD_eq fun k hk => gf2_injective (sub_eq_zero.mp ?_)
  rw [← coeff_series, ← coeff_series, ← map_sub, X_pow_dvd_iff.mp h k hk]

/-- A shift left is a product by X. -/
theorem X_pow_dvd_X_mul_sub_shiftLeft (v : BitVec n) : X ^ n ∣ X * series v - series (v <<< 1) := by
  refine X_pow_dvd_sub_series fun k hk => ?_
  rw [BitVec.getLsbD_shiftLeft, decide_eq_true hk]
  cases k with
  | zero => simp
  | succ k => simp [coeff_succ_X_mul]

/-- clmul is the product. -/
theorem X_pow_dvd_mul_sub_clmul (a b : BitVec n) : X ^ n ∣ series a * series b - series (clmul a b) :=
  X_pow_dvd_sub_series fun k hk => by rw [getLsbD_clmul a b hk, ← coeff_series, series_clmulProduct]

/-! ## CRC as division

The divisor is 1 + X * poly: the polynomial of a CRC is written without its lowest coefficient. -/

variable (poly : BitVec 32)

/-- A round clears the lowest bit by adding the divisor if that bit is 1, and divides by X. -/
theorem series_crcRound (x : BitVec n) : series x + C (gf2 (x.getLsbD 0)) * (X * series (poly.setWidth n)) =
    C (gf2 (x.getLsbD 0)) + X * series (crcRound poly x) := by
  ext k
  rw [map_add, map_add, coeff_C_mul, coeff_series]
  cases k with
  | zero => simp
  | succ k =>
    rw [coeff_succ_X_mul, coeff_succ_X_mul, coeff_succ_C, zero_add, coeff_series, coeff_series, crcRound]
    cases x.getLsbD 0
    · simp [Nat.add_comm]
    · rw [if_pos rfl, BitVec.getLsbD_xor, BitVec.getLsbD_ushiftRight, Nat.add_comm 1 k, gf2_xor, gf2_true, one_mul]

/-- The bits that `k` rounds clear are a quotient of `k` bits, and the result is the remainder, divided by X^k. -/
theorem exists_crc_quotient (k : Nat) (x : BitVec n) : ∃ q : BitVec k,
    series x + series q * (X * series (poly.setWidth n)) = series q + X ^ k * series (crc poly k x) := by
  induction k generalizing x with
  | zero =>
    refine ⟨0#0, ?_⟩
    rw [series_of_length_zero, crc]
    ring
  | succ k ih =>
    obtain ⟨q, hq⟩ := ih (crcRound poly x)
    refine ⟨q.concat (x.getLsbD 0), ?_⟩
    rw [series_concat, crc_succ]
    linear_combination series_crcRound poly x + X * hq

/-- Barrett reduction: if `mu` is the inverse of the divisor modulo X^n, that is mu * (1 + X * poly) = 1, then clmul by it gives
the quotient, and clmulr by the polynomial the remainder. -/
theorem clmulr_clmul_eq_crc {mu : BitVec n} (hmu : clmul mu (poly.setWidth n) <<< 1 ^^^ 1#n = mu) (x : BitVec n) :
    clmulr (clmul x mu) (poly.setWidth n) = crc poly n x := by
  rcases Nat.eq_zero_or_pos n with rfl | hn
  · exact BitVec.eq_of_zero_length rfl
  obtain ⟨q, hq⟩ := exists_crc_quotient poly n x
  have hquotient : clmul x mu = q := by
    have hinverse := congrArg series hmu
    rw [series_xor, series_one hn] at hinverse
    obtain ⟨u, hu⟩ := X_pow_dvd_mul_sub_clmul x mu
    obtain ⟨v, hv⟩ := X_pow_dvd_mul_sub_clmul mu (poly.setWidth n)
    obtain ⟨w, hw⟩ := X_pow_dvd_X_mul_sub_shiftLeft (clmul mu (poly.setWidth n))
    refine eq_of_X_pow_dvd_series_sub ⟨series (crc poly n x) * series mu - u - series q * X * v - series q * w, ?_⟩
    linear_combination series mu * hq - hu - series q * X * hv - series q * hw - series q * hinverse
  have hremainder : ∀ k, coeff (n - 1 + k) (series q * series (poly.setWidth n)) = coeff k (series (crc poly n x)) := by
    intro k
    have hcoeff := congrArg (coeff (n - 1 + k + 1)) hq
    have hplace : n - 1 + k + 1 = k + n := by omega
    rwa [mul_left_comm, map_add, map_add, coeff_succ_X_mul, hplace, coeff_series_of_ge _ (by omega),
      coeff_series_of_ge _ (by omega), zero_add, zero_add, coeff_X_pow_mul] at hcoeff
  refine BitVec.eq_of_getLsbD_eq fun k hk => gf2_injective ?_
  rw [hquotient, getLsbD_clmulr _ _ hk, ← coeff_series, ← coeff_series, series_clmulProduct, hremainder]

/-- The constants of R279: 0xF7011641 is the inverse of the divisor. -/
theorem clmulr_clmul_eq_crc_crc32Poly (hn : n = 32) {mu p : BitVec n} (hmu : mu.toNat = 0xF7011641)
    (hp : p.toNat = 0xEDB88320) (x : BitVec n) : clmulr (clmul x mu) p = crc crc32Poly 32 x := by
  subst hn
  obtain rfl : mu = 0xF7011641#32 := BitVec.eq_of_toNat_eq hmu
  obtain rfl : p = crc32Poly := BitVec.eq_of_toNat_eq hp
  have hinverse : clmul 0xF7011641#32 (crc32Poly.setWidth 32) <<< 1 ^^^ 1#32 = 0xF7011641#32 := by decide
  simpa only [BitVec.setWidth_eq] using clmulr_clmul_eq_crc crc32Poly hinverse x

end

end Sys2Proof.Machine
end

section
/-!
The statements of 45_clmul_crc_bmat.md: the result of each instruction.
-/
namespace Sys2Proof.Machine

/-- Settles O42: the three instructions cut the same product. -/
theorem carrylessMultiply : Obligations.CarrylessMultiply := by
  rintro s rd rs1 rs2 n p rfl rfl
  exact ⟨State.done_bitsOf fun _ hk => (getLsbD_clmul _ _ hk).trans (getLsbD_clmulProduct ..),
    State.done_bitsOf fun _ hk => (getLsbD_clmulh _ _ hk).trans (getLsbD_clmulProduct ..),
    State.done_bitsOf fun _ hk => (getLsbD_clmulr _ _ hk).trans (getLsbD_clmulProduct ..)⟩

/-- Settles O43: the two rounds are those of the two polynomials. -/
theorem crcRounds : Obligations.CrcRounds := by
  intro s rd rs1 round roundC hround hroundC
  obtain rfl : round = crcRound crc32Poly := hround.trans (crcRound_eq crc32Poly).symm
  obtain rfl : roundC = crcRound crc32cPoly := hroundC.trans (crcRound_eq crc32cPoly).symm
  have hdone poly k : s.done rd (crc poly k (s.x rs1)) = .next (s.retire rd (Nat.repeat (crcRound poly) k (s.x rs1))) :=
    State.done_of_eq (crc_eq_repeat poly k _)
  exact ⟨hdone _ 8, hdone _ 16, hdone _ 32, hdone _ 8, hdone _ 16, hdone _ 32, fun hx =>
    ⟨(State.onRv64_rv64 hx _ _).trans (hdone _ 64), (State.onRv64_rv64 hx _ _).trans (hdone _ 64)⟩⟩

/-- Settles O44: the second multiply still reads the polynomial, as its register is not the one written, and the two multiplies
are a Barrett reduction. Register 0 reads as 0 after both programs. -/
theorem crcByBarrettReduction : Obligations.CrcByBarrettReduction := by
  intro s t u w r q0 q1 hx hq1 hmu hp ht hu hw
  obtain rfl := State.done_eq_next.mp ht
  obtain rfl := State.done_eq_next.mp hu
  obtain rfl := State.done_eq_next.mp hw
  by_cases hr : r = 0
  · rw [hr]
    rfl
  · rw [State.retire_x_self _ _ _ hr, State.retire_x_self _ _ _ hr, State.retire_x_self _ _ _ hr,
      State.retire_x_other _ _ _ _ hq1]
    exact congrArg _ (clmulr_clmul_eq_crc_crc32Poly (congrArg Xlen.bits hx) hmu hp _)

/-- Settles O45: the elements of the three matrices, read from the registers. -/
theorem bitMatrix : Obligations.BitMatrix := by
  intro s rd rs1 rs2 hx
  refine ⟨State.onRv64_done_bmatOf hx _ rd fun k => ?bmatflip, State.onRv64_done_bmatOf hx _ rd fun k => ?bmatxor,
    State.onRv64_done_bmatOf hx _ rd fun k => ?bmator⟩
  case bmatflip => exact State.bmatElem_x hx ..
  case bmatxor => simp only [foldl_bne_range_eq_xorBits, State.bmatElem_x hx]
  case bmator => simp only [any_range_eq_orBits, State.bmatElem_x hx]

end Sys2Proof.Machine
end

section
/-!
SUPPORT. The bits of each operation of 46_ternary.md. A funnel shift takes XLEN neighbouring bits out of a double word (R302); as
for 41, the rules take the bits of the source words as functions.
-/
namespace Sys2Proof.Machine

/-! ## Conditional mix (R300) -/

/-- cmix takes each bit from the one word or the other, as the control word says. -/
theorem getLsbD_cmix {n k : Nat} (a b c : BitVec n) (hk : k < n) :
    ((a &&& b) ||| (c &&& ~~~b)).getLsbD k = if b.getLsbD k then a.getLsbD k else c.getLsbD k := by
  rw [BitVec.getLsbD_or, BitVec.getLsbD_and, BitVec.getLsbD_and, getLsbD_not_of_lt _ hk]
  cases b.getLsbD k <;> simp

/-! ## The double word (R302) -/

/-- The bits of the double word `{hi, lo}`, as the statements give them. -/
def pairBits (n : Nat) (lo hi : Nat → Bool) (j : Nat) : Bool := if j < n then lo j else hi (j - n)

section
variable {n m k : Nat} {f g : Nat → Bool}

/-- Exchanging the halves rotates the double word by one of them. -/
theorem pairBits_swap {j : Nat} (hj : j < 2 * n) : pairBits n g f j = pairBits n f g ((j + n) % (2 * n)) := by
  rw [pairBits, pairBits]
  by_cases hlow : j < n
  · rw [Nat.mod_eq_of_lt (by omega), if_pos hlow, if_neg (by omega), Nat.add_sub_cancel]
  · have hwrap : (j + n) % (2 * n) = j - n := by
      rw [show j + n = j - n + 2 * n by omega, Nat.add_mod_right, Nat.mod_eq_of_lt (by omega)]
    rw [hwrap, if_neg hlow, if_pos (by omega)]

/-- The two shifted halves make up the part of the double word from bit `r` up. -/
theorem getLsbD_ushiftRight_or_shiftLeft {lo hi : BitVec n} (hlo : ∀ j < n, lo.getLsbD j = f j)
    (hhi : ∀ j < n, hi.getLsbD j = g j) {r : Nat} (hr : r ≤ n) (hk : k < n) :
    (lo >>> r ||| hi <<< (n - r)).getLsbD k = pairBits n f g (k + r) := by
  rw [BitVec.getLsbD_or, BitVec.getLsbD_ushiftRight, BitVec.getLsbD_shiftLeft, pairBits, Nat.add_comm r k]
  split
  next hin =>
    have hbelow : k < n - r := by omega
    simp [hlo _ hin, hbelow]
  next hout =>
    have habove : ¬k < n - r := by omega
    have hsource : k - (n - r) = k + r - n := by omega
    simp [BitVec.getLsbD_of_ge lo _ (not_lt.mp hout), hk, habove, hsource, hhi (k + r - n) (by omega)]

/-! ## The funnel shifts (R302) -/

/-- An immediate that cannot exceed the double word is its own amount. -/
theorem funnelAmount_of_imm (imm : BitVec m) (h : 2 ^ m ≤ 2 * n) : funnelAmount n imm = imm.toNat :=
  Nat.mod_eq_of_lt (imm.isLt.trans_le h)

/-- Above one width the amount leaves a remainder less by that width. -/
theorem funnelAmount_mod_of_ge (b : BitVec m) (hn : 0 < n) (h : n ≤ funnelAmount n b) :
    funnelAmount n b % n = funnelAmount n b - n := by
  have hlt := funnelAmount_lt hn b
  rw [Nat.mod_eq_sub_mod h, Nat.mod_eq_of_lt (by omega)]

/-- fsr, without the case of the amount 0: the second half is then shifted out. -/
theorem fsr_eq (a c : BitVec n) (b : BitVec m) : fsr a b c =
    (if funnelAmount n b < n then a else c) >>> (funnelAmount n b % n) |||
      (if funnelAmount n b < n then c else a) <<< (n - funnelAmount n b % n) := by
  rw [fsr]
  split
  next h0 => simp [h0]
  next => rfl

/-- fsl, likewise: it is the part of the double word that ends as far below the top as the shift amount says. -/
theorem fsl_eq (a c : BitVec n) (b : BitVec m) (hn : 0 < n) : fsl a b c =
    (if funnelAmount n b < n then c else a) >>> (n - funnelAmount n b % n) |||
      (if funnelAmount n b < n then a else c) <<< (n - (n - funnelAmount n b % n)) := by
  rw [fsl, Nat.sub_sub_self (Nat.mod_lt _ hn).le, BitVec.or_comm]
  split
  next h0 => simp [h0, BitVec.ushiftRight_eq_zero]
  next => rfl

variable {a c : BitVec n}

/-- fsr takes each bit of `{c, a}` from the shift amount above it, around the end of the double word. -/
theorem getLsbD_fsr (ha : ∀ j < n, a.getLsbD j = f j) (hc : ∀ j < n, c.getLsbD j = g j) (b : BitVec m) (hk : k < n) :
    (fsr a b c).getLsbD k = pairBits n f g ((k + funnelAmount n b) % (2 * n)) := by
  have hn : 0 < n := Nat.zero_lt_of_lt hk
  have hmod := (Nat.mod_lt (funnelAmount n b) hn).le
  have hamount := funnelAmount_lt hn b
  rw [fsr_eq]
  by_cases hlow : funnelAmount n b < n
  · rw [if_pos hlow, if_pos hlow, getLsbD_ushiftRight_or_shiftLeft ha hc hmod hk, Nat.mod_eq_of_lt hlow,
      Nat.mod_eq_of_lt (by omega)]
  · have hrest := funnelAmount_mod_of_ge b hn (not_lt.mp hlow)
    have hplace : k + (funnelAmount n b - n) + n = k + funnelAmount n b := by omega
    rw [if_neg hlow, if_neg hlow, getLsbD_ushiftRight_or_shiftLeft hc ha hmod hk, hrest, pairBits_swap (by omega), hplace]

/-- fsl takes each bit of the upper half of `{a, c}` from the shift amount below it, around the end of the double word. -/
theorem getLsbD_fsl (ha : ∀ j < n, a.getLsbD j = f j) (hc : ∀ j < n, c.getLsbD j = g j) (b : BitVec m) (hk : k < n) :
    (fsl a b c).getLsbD k = pairBits n g f ((k + n + 2 * n - funnelAmount n b) % (2 * n)) := by
  have hn : 0 < n := Nat.zero_lt_of_lt hk
  have hmod := Nat.sub_le n (funnelAmount n b % n)
  have hamount := funnelAmount_lt hn b
  rw [fsl_eq a c b hn]
  by_cases hlow : funnelAmount n b < n
  · have hplace : k + n + 2 * n - funnelAmount n b = k + (n - funnelAmount n b) + 2 * n := by omega
    rw [if_pos hlow, if_pos hlow, getLsbD_ushiftRight_or_shiftLeft hc ha hmod hk, Nat.mod_eq_of_lt hlow, hplace,
      Nat.add_mod_right, Nat.mod_eq_of_lt (by omega)]
  · have hrest := funnelAmount_mod_of_ge b hn (not_lt.mp hlow)
    have hplace : k + (n - (funnelAmount n b - n)) + n = k + n + 2 * n - funnelAmount n b := by omega
    rw [if_neg hlow, if_neg hlow, getLsbD_ushiftRight_or_shiftLeft ha hc hmod hk, hrest, pairBits_swap (by omega), hplace]

end

end Sys2Proof.Machine
end

section
/-!
The statements of 46_ternary.md: the result of each instruction.
-/
namespace Sys2Proof.Machine

/-- Settles O46: cmix bit by bit, cmov by the one test that the control word is the number 0. -/
theorem conditionalMixAndMove : Obligations.ConditionalMixAndMove := by
  intro s rd rs1 rs2 rs3
  have hzero : s.x rs2 ≠ 0#_ ↔ ¬(s.x rs2).toNat = 0 := not_congr BitVec.toNat_inj.symm
  exact ⟨State.done_bitsOf fun _ => getLsbD_cmix _ _ _, State.done_of_eq ((if_congr hzero rfl rfl).trans (ite_not ..))⟩

/-- Settles O47: the bits of the double word of the two registers. -/
theorem funnelShift : Obligations.FunnelShift := by
  rintro s rd rs1 rs2 rs3 imm n p hiLo loHi rfl rfl rfl rfl
  have hx : ∀ r, ∀ k < s.xlen.bits, (s.x r).getLsbD k = s.bit r k := fun r k _ => s.getLsbD_x r k
  have himm : 2 ^ 6 ≤ 2 * s.xlen.bits := by cases s.xlen <;> decide
  rw [← funnelAmount_of_imm imm himm]
  exact ⟨State.done_bitsOf fun _ => getLsbD_fsl (hx rs1) (hx rs3) _,
    State.done_bitsOf fun _ => getLsbD_fsr (hx rs1) (hx rs3) _,
    State.done_bitsOf fun _ => getLsbD_fsr (hx rs1) (hx rs3) _⟩

/-- Settles O48: the same bits at 32, from the two low words. -/
theorem funnelShiftWord : Obligations.FunnelShiftWord := by
  rintro s rd rs1 rs2 rs3 imm p hiLo loHi hx rfl rfl rfl
  have hxw : ∀ r, ∀ k < 32, (s.xw r).getLsbD k = s.bit r k := fun r _ => s.getLsbD_xw r
  rw [← funnelAmount_of_imm (n := 32) imm (by decide)]
  exact ⟨State.onRv64_doneW_bitsOf hx _ fun _ => getLsbD_fsl (hxw rs1) (hxw rs3) _,
    State.onRv64_doneW_bitsOf hx _ fun _ => getLsbD_fsr (hxw rs1) (hxw rs3) _,
    State.onRv64_doneW_bitsOf hx _ fun _ => getLsbD_fsr (hxw rs1) (hxw rs3) _⟩

end Sys2Proof.Machine
end

section
/-!
SUPPORT. The operations of 47_address_and_uw.md as numbers modulo 2^XLEN.
-/
namespace Sys2Proof.Machine

/-- A word shifted left is its number times a power of two. -/
theorem shiftLeft_eq_ofNat {n : Nat} (v : BitVec n) (k : Nat) : v <<< k = BitVec.ofNat n (2 ^ k * v.toNat) :=
  BitVec.eq_of_toNat_eq (by rw [BitVec.toNat_shiftLeft, Nat.shiftLeft_eq, BitVec.toNat_ofNat, Nat.mul_comm])

/-- The shifted sum of R320 to R325. -/
theorem shiftAdd_eq_ofNat {n : Nat} (k : Nat) (a b : BitVec n) :
    shiftAdd k a b = BitVec.ofNat n (2 ^ k * a.toNat + b.toNat) := by
  rw [shiftAdd, shiftLeft_eq_ofNat, BitVec.ofNat_add, BitVec.ofNat_toNat n b, BitVec.setWidth_eq]

/-- The zero-extended low word of a register is its number modulo 2^32 (R323). -/
theorem State.toNat_zextWord_x (s : State) (r : Reg) : (zextWord (s.x r)).toNat = (s.x r).toNat % 2 ^ 32 := by
  have hwide : 2 ^ 32 ≤ 2 ^ s.xlen.bits := by cases s.xlen <;> decide
  rw [zextWord, BitVec.toNat_setWidth, ← State.xw, State.toNat_xw,
    Nat.mod_eq_of_lt ((Nat.mod_lt _ (by decide)).trans_le hwide)]

/-- On RV64 a six-bit immediate is its own shift amount. -/
theorem shamt_of_imm6 {s : State} (hx : s.xlen = .rv64) (imm : BitVec 6) : shamt s.xlen.bits imm = imm.toNat := by
  rw [shamt, hx]
  exact Nat.mod_eq_of_lt imm.isLt

end Sys2Proof.Machine
end

section
/-!
The statement of 47_address_and_uw.md: the result of each instruction.
-/
namespace Sys2Proof.Machine

/-- Settles O49: each row is a shifted sum of a register or of its zero-extended low word; add.uw shifts by 0. -/
theorem shiftAndAdd : Obligations.ShiftAndAdd := by
  rintro s rd rs1 rs2 imm _ _ _ rfl rfl rfl
  have hplain (k : Nat) := shiftAdd_eq_ofNat k (s.x rs1) (s.x rs2)
  refine ⟨State.done_of_eq (hplain 1), State.done_of_eq (hplain 2), State.done_of_eq (hplain 3), fun hx => ?_⟩
  have hword (k : Nat) : shiftAdd k (zextWord (s.x rs1)) (s.x rs2) =
      BitVec.ofNat _ (2 ^ k * ((s.x rs1).toNat % 2 ^ 32) + (s.x rs2).toNat) := by
    rw [shiftAdd_eq_ofNat, s.toNat_zextWord_x]
  have honRv64 (i : Instr) {v w : s.XWord} (h : v = w) : s.onRv64 i (s.done rd v) = .next (s.retire rd w) :=
    (State.onRv64_rv64 hx i _).trans (State.done_of_eq h)
  refine ⟨honRv64 _ (hword 1), honRv64 _ (hword 2), honRv64 _ (hword 3), honRv64 _ ?addUw, honRv64 _ ?slliUw⟩
  case addUw => simpa [shiftAdd] using hword 0
  case slliUw => rw [shiftLeft_eq_ofNat, shamt_of_imm6 hx, s.toNat_zextWord_x, Nat.mul_comm]

end Sys2Proof.Machine
end

section
/-!
SUPPORT. The bits of the base-ISA shifts (49_base_isa_companion.md R374 to R379) and of the pseudo-words
(48_pseudo_instructions.md). As for 41, the rules take the bits of the source word as a function where it may be a register
or a low word.
-/
namespace Sys2Proof.Machine

/-! ## Shifts -/

section
variable {n k : Nat} {a : BitVec n} {f : Nat → Bool}

/-- A left shift takes each bit from below, and zeros at the lower end. -/
theorem getLsbD_shiftLeft_of_bits (ha : ∀ j < n, a.getLsbD j = f j) (p : Nat) (hk : k < n) :
    (a <<< p).getLsbD k = (decide (p ≤ k) && f (k - p)) := by
  rw [BitVec.getLsbD_shiftLeft, decide_eq_true hk, ha _ (by omega), Bool.true_and]
  simp only [← decide_not, not_lt]

/-- A logical right shift takes each bit from above, and zeros at the upper end. -/
theorem getLsbD_ushiftRight_of_bits (ha : ∀ j < n, a.getLsbD j = f j) (p k : Nat) :
    (a >>> p).getLsbD k = (decide (k + p < n) && f (k + p)) := by
  rw [BitVec.getLsbD_ushiftRight, Nat.add_comm]
  by_cases hin : k + p < n
  · rw [ha _ hin, decide_eq_true hin, Bool.true_and]
  · rw [BitVec.getLsbD_of_ge _ _ (not_lt.mp hin), decide_eq_false hin, Bool.false_and]

/-- An arithmetic right shift takes each bit from above, and the top bit at the upper end. -/
theorem getLsbD_sshiftRight_of_bits (ha : ∀ j < n, a.getLsbD j = f j) (p : Nat) (hk : k < n) :
    (a.sshiftRight p).getLsbD k = f (min (k + p) (n - 1)) := by
  rw [BitVec.getLsbD_sshiftRight, decide_eq_false (not_le.mpr hk), Bool.not_false, Bool.true_and, Nat.add_comm]
  split
  next hin => rw [ha _ hin, min_eq_left (by omega)]
  next hout => rw [BitVec.msb_eq_getLsbD_last, ha _ (by omega), min_eq_right (by omega)]

end

/-! ## zext.h (R341, R342) -/

/-- pack of a word with the word 0 keeps the lower half. -/
theorem getLsbD_pack_zero {n : Nat} (hn : 2 ∣ n) (a : BitVec n) {k : Nat} (hk : k < n) :
    (pack a 0#n).getLsbD k = (decide (k < n / 2) && a.getLsbD k) := by
  rw [getLsbD_pack hn _ _ hk, BitVec.getLsbD_zero]
  split <;> simp [*]

theorem State.xw_zero (s : State) : s.xw 0 = 0#32 := BitVec.setWidth_zero ..

/-- The half word of packw with register 0 is not negative, so its sign extension adds zeros. -/
theorem State.getLsbD_signExtend_pack_xw_zero (s : State) (r : Reg) {n k : Nat} (hk : k < n) :
    ((pack (s.xw r) (s.xw 0)).signExtend n).getLsbD k = (decide (k < 16) && s.bit r k) := by
  have hbits {j : Nat} (hj : j < 32) : (pack (s.xw r) (s.xw 0)).getLsbD j = (decide (j < 16) && s.bit r j) := by
    rw [s.xw_zero, getLsbD_pack_zero (by decide) _ hj, s.getLsbD_xw r hj]
  rw [BitVec.getLsbD_signExtend, decide_eq_true hk, Bool.true_and]
  split
  next hlow => exact hbits hlow
  next hhigh =>
    rw [BitVec.msb_eq_getLsbD_last, hbits (by decide), decide_eq_false (by omega : ¬k < 16)]
    rfl

/-! ## rev8 and orc.b (R346, R348) -/

/-- Inverting the address bits above the lowest three counts the bytes from the other end. -/
theorem xor_rev8Imm (x : Xlen) {k : Nat} (hk : k < x.bits) :
    k ^^^ shamt x.bits (rev8Imm x) = 8 * (x.bits / 8 - 1 - k / 8) + k % 8 := by
  revert k
  cases x <;> decide

/-- A number lies inside a word of ones exactly if it has no bit above it. -/
theorem or_two_pow_sub_one_eq_right_iff {d m : Nat} : d ||| (2 ^ m - 1) = 2 ^ m - 1 ↔ d < 2 ^ m := by
  rw [or_eq_right_iff_testBit]
  simp only [Nat.testBit_two_pow_sub_one, decide_eq_true_eq]
  constructor
  · intro h
    refine Nat.lt_pow_two_of_testBit d fun i hi => ?_
    exact Bool.eq_false_iff.mpr fun hbit => absurd (h i hbit) (not_lt.mpr hi)
  · intro h i hbit
    exact (Nat.pow_lt_pow_iff_right (by decide)).mp ((Nat.ge_two_pow_of_testBit hbit).trans_lt h)

/-- Two addresses differ in the lowest three bits only exactly if they lie in one byte. -/
theorem xor_or_seven_eq_seven_iff {j k : Nat} : (j ^^^ k) ||| 7 = 7 ↔ j / 8 = k / 8 := by
  have hdiv : (j ^^^ k) / 2 ^ 3 = j / 8 ^^^ k / 8 := Nat.xor_div_two_pow
  have hinside : (j ^^^ k) ||| 7 = 7 ↔ (j ^^^ k) < 2 ^ 3 := or_two_pow_sub_one_eq_right_iff (m := 3)
  rw [hinside, ← Nat.div_eq_zero_iff_lt (by decide), hdiv, Nat.xor_eq_zero_iff]

/-- The or over the addresses that share a byte with `k` is the or over the eight bits of that byte. -/
theorem orBits_same_byte {n k : Nat} (hn : 8 ∣ n) (hk : k < n) (f : Nat → Bool) :
    (orBits n fun j => (j ^^^ k) ||| 7 == 7 && f j) = orBits 8 fun j => f (8 * (k / 8) + j) := by
  rw [Bool.eq_iff_iff, orBits_eq_true_iff, orBits_eq_true_iff]
  simp only [Bool.and_eq_true, beq_iff_eq, xor_or_seven_eq_seven_iff]
  constructor
  · rintro ⟨j, -, hbyte, hf⟩
    exact ⟨j % 8, Nat.mod_lt j (by decide), by rwa [← hbyte, Nat.div_add_mod]⟩
  · rintro ⟨j, hj, hf⟩
    exact ⟨8 * (k / 8) + j, by omega, by omega, hf⟩

/-! ## unzip8 and unzip16 (R352) -/

/-- unperm carries the address of bit `k` of the gathered bytes to `k`. -/
theorem unperm_24_unzip8 : ∀ k < 64, unperm 24 (16 * (k % 32 / 8) + 8 * (k / 32) + k % 8) = k := by decide

/-- unperm carries the address of bit `k` of the gathered half words to `k`. -/
theorem unperm_16_unzip16 : ∀ k < 64, unperm 16 (32 * (k % 32 / 16) + 16 * (k / 32) + k % 16) = k := by decide

/-- unshfli on RV64 takes bit `k` from any address that unperm carries to `k`. -/
theorem State.getLsbD_unshfl_of_unperm {s : State} (hx : s.xlen = .rv64) (r : Reg) (imm : BitVec 5) {i k : Nat}
    (hi : i < 64) (h : unperm imm.toNat i = k) : (unshfl (s.x r) imm).getLsbD k = s.bit r i := by
  have hbits : s.xlen.bits = 64 := congrArg Xlen.bits hx
  have hcontrol : imm.toNat % (s.xlen.bits / 2) = imm.toNat := by
    rw [hbits]
    exact Nat.mod_eq_of_lt imm.isLt
  rw [← h, ← hcontrol]
  exact getLsbD_unshfl (stagedWidth_bits s.xlen) s.two_dvd_bits (fun j _ => s.getLsbD_x r j) imm (hbits ▸ hi)

end Sys2Proof.Machine
end

section
/-!
The statements about the base-ISA shifts (49_base_isa_companion.md) and the pseudo-words (48_pseudo_instructions.md).
-/
namespace Sys2Proof.Machine

/-- Settles O50: the register and the immediate form differ in where the amount comes from only. -/
theorem baseShifts : Obligations.BaseShifts := by
  rintro s rd rs1 rs2 imm _ _ _ rfl rfl rfl
  have ha : ∀ k < s.xlen.bits, (s.x rs1).getLsbD k = s.bit rs1 k := fun k _ => s.getLsbD_x rs1 k
  have hsrl (p k : Nat) : (s.x rs1 >>> p).getLsbD k = s.bit rs1 (k + p) := by
    rw [BitVec.getLsbD_ushiftRight, Nat.add_comm, State.getLsbD_x]
  exact ⟨State.done_bitsOf fun _ => getLsbD_shiftLeft_of_bits ha _, State.done_bitsOf fun k _ => hsrl _ k,
    State.done_bitsOf fun _ => getLsbD_sshiftRight_of_bits ha _,
    State.done_bitsOf fun _ => getLsbD_shiftLeft_of_bits ha _, State.done_bitsOf fun k _ => hsrl _ k,
    State.done_bitsOf fun _ => getLsbD_sshiftRight_of_bits ha _⟩

/-- zext.h keeps bits 15:0, as pack on RV32 and as packw on RV64 (48 R341, R342). -/
theorem exec_zextH (s : State) (rd rs1 : Reg) :
    exec (.zextH rd rs1) s = .next (s.retire rd (bitsOf _ fun k => decide (k < 16) && s.bit rs1 k)) := by
  change execZextH rd rs1 s = _
  unfold execZextH
  split
  next hx =>
    have hhalf : s.xlen.bits / 2 = 16 := congrArg (·.bits / 2) hx
    refine State.done_bitsOf fun k hk => ?_
    rw [s.x_zero, getLsbD_pack_zero s.two_dvd_bits _ hk, hhalf, s.getLsbD_x]
  next => exact State.done_bitsOf fun k hk => s.getLsbD_signExtend_pack_xw_zero rs1 hk

/-- Settles O51: each pseudo-word is the wider instruction with a fixed control word, whose addresses are worked out. -/
theorem pseudoWordResults : Obligations.PseudoWordResults := by
  rintro s rd rs1 _ rfl
  have hw := stagedWidth_bits s.xlen
  have ha : ∀ k < s.xlen.bits, (s.x rs1).getLsbD k = s.bit rs1 k := fun k _ => s.getLsbD_x rs1 k
  refine ⟨exec_zextH s rd rs1, State.done_bitsOf fun k hk => ?rev8, State.done_bitsOf fun k hk => ?orcB, fun hx =>
    ⟨(State.onRv64_rv64 hx _ _).trans (State.done_bitsOf fun k hk => ?unzip8),
      (State.onRv64_rv64 hx _ _).trans (State.done_bitsOf fun k hk => ?unzip16)⟩⟩
  case rev8 => rw [getLsbD_grev hw ha _ hk, xor_rev8Imm _ hk]
  case orcB =>
    have hcontrol : shamt s.xlen.bits 7#6 = 7 := by cases s.xlen <;> rfl
    have hbytes : 8 ∣ s.xlen.bits := by cases s.xlen <;> decide
    rw [getLsbD_gorc hw ha _ hk, hcontrol, orBits_same_byte hbytes hk]
  case unzip8 =>
    have hk64 : k < 64 := hk.trans_eq (congrArg Xlen.bits hx)
    exact State.getLsbD_unshfl_of_unperm hx rs1 24#5 (by omega) (unperm_24_unzip8 k hk64)
  case unzip16 =>
    have hk64 : k < 64 := hk.trans_eq (congrArg Xlen.bits hx)
    exact State.getLsbD_unshfl_of_unperm hx rs1 16#5 (by omega) (unperm_16_unzip16 k hk64)

end Sys2Proof.Machine
end

section
/-!
SUPPORT. How an assembled immediate reads as a number, and on which widths a line for an instruction exists
(48_pseudo_instructions.md R353, R356).
-/
namespace Sys2Proof.Machine

/-! ## Truncated immediates (R356) -/

/-- Truncating an integer to `m` bits is taking it modulo 2^m. -/
theorem setWidth_ofInt_eq_ofNat_emod (m n : Nat) (z : Int) :
    (BitVec.ofInt m z).setWidth n = BitVec.ofNat n (z % (2 ^ m : Nat)).toNat := by
  rw [← BitVec.ofNat_toNat, BitVec.toNat_ofInt]

theorem ofInt_eq_ofNat_emod (n : Nat) (z : Int) : BitVec.ofInt n z = BitVec.ofNat n (z % (2 ^ n : Nat)).toNat := by
  rw [← setWidth_ofInt_eq_ofNat_emod, BitVec.setWidth_eq]

/-- A six-bit immediate counts modulo XLEN. -/
theorem asmImm6_eq_ofNat (x : Xlen) (z : Int) : asmImm6 x z = BitVec.ofNat 6 (z % (x.bits : Int)).toNat := by
  cases x
  · exact setWidth_ofInt_eq_ofNat_emod 5 6 z
  · exact ofInt_eq_ofNat_emod 6 z

/-- The immediate of shfli and unshfli counts modulo half of XLEN. -/
theorem asmImm5_eq_ofNat (x : Xlen) (z : Int) : asmImm5 x z = BitVec.ofNat 5 (z % ((x.bits / 2 : Nat) : Int)).toNat := by
  cases x
  · exact setWidth_ofInt_eq_ofNat_emod 4 5 z
  · exact ofInt_eq_ofNat_emod 5 z

/-- An integer modulo XLEN lies below XLEN. -/
theorem toNat_emod_bits_lt (x : Xlen) (z : Int) : (z % (x.bits : Int)).toNat < x.bits := by
  have hpos : 0 < x.bits := by cases x <;> decide
  have hlt := Int.emod_lt_of_pos z (Int.natCast_pos.mpr hpos)
  omega

/-- The number that a six-bit immediate stands for: none is lost, as XLEN is at most 2^6. -/
theorem toNat_asmImm6 (x : Xlen) (z : Int) : (asmImm6 x z).toNat = (z % (x.bits : Int)).toNat := by
  have hfield : x.bits ≤ 2 ^ 6 := by cases x <;> decide
  rw [asmImm6_eq_ofNat, BitVec.toNat_ofNat, Nat.mod_eq_of_lt ((toNat_emod_bits_lt x z).trans_le hfield)]

/-- The immediate that roli gives rori is the number that is left of XLEN (R353). -/
theorem toNat_asmImm6_sub (x : Xlen) (imm : Nat) (h : imm < x.bits) :
    (asmImm6 x ((x.bits : Int) - (imm : Int))).toNat = (x.bits - imm) % x.bits := by
  rw [toNat_asmImm6, ← Int.natCast_sub h.le, ← Int.natCast_mod, Int.toNat_natCast]

/-- A truncated immediate fits the field that rori has at the width (30_encoding.md R71). -/
theorem immFits_rori_asmImm6 (x : Xlen) (rd rs : Reg) (z : Int) : (Instr.rori rd rs (asmImm6 x z)).immFits x = true := by
  have hlt : (asmImm6 x z).toNat < x.bits := (toNat_asmImm6 x z).trans_lt (toNat_emod_bits_lt x z)
  cases x with
  | rv32 => exact decide_eq_true hlt
  | rv64 => rfl

/-! ## Lines for instructions of the table (30_encoding.md R85) -/

theorem onWidth_of_bothWidths {i : Instr} (h : i.rv64Only = false) (x : Xlen) : onWidth x i = some (.table i) := by
  simp [onWidth, h]

theorem onWidth_of_rv64Only {i : Instr} (h : i.rv64Only = true) (x : Xlen) :
    onWidth x i = if x = .rv64 then some (.table i) else none := by
  cases x <;> simp [onWidth, h]

end Sys2Proof.Machine
end

section
/-!
The statements of 48_pseudo_instructions.md about the assembler names.
-/
namespace Sys2Proof.Machine

/-- Settles O59: the tables are finite; a name's immediate is the number the statement writes, and its line exists on the
widths that have the instruction. -/
theorem assemblerControlWords : Obligations.AssemblerControlWords := by
  refine ⟨rfl, rfl, rfl, rfl, rfl, rfl, rfl, rfl, rfl, rfl, fun _ _ _ _ _ _ => ⟨rfl, rfl, rfl, rfl⟩, ?_⟩
  rintro x asm rd rs rs3 imm _ _ _ _ _ rfl rfl rfl rfl rfl
  have hw : BitVec.ofNat 5 (imm % 32).toNat = BitVec.ofInt 5 imm := (ofInt_eq_ofNat_emod 5 imm).symm
  have hf : BitVec.ofNat 6 (imm % 64).toNat = BitVec.ofInt 6 imm := (ofInt_eq_ofNat_emod 6 imm).symm
  rw [← asmImm6_eq_ofNat, ← asmImm5_eq_ofNat, hw, hf]
  simp only [List.forall_mem_cons, List.not_mem_nil, false_implies, implies_true, and_true]
  refine ⟨?bothWidths, ?rv64Only, rfl, onWidth_of_rv64Only rfl x⟩
  case bothWidths => and_intros <;> exact onWidth_of_bothWidths rfl x
  case rv64Only => and_intros <;> exact onWidth_of_rv64Only rfl x

/-- Settles O60: rotating right by what is left of XLEN is rotating left. -/
theorem assemblerRotateLeft : Obligations.AssemblerRotateLeft := by
  intro s asm rd rs imm himm
  refine ⟨_, rfl, immFits_rori_asmImm6 _ _ _ _, State.done_bitsOf fun k hk => ?_⟩
  have ha : ∀ j < s.xlen.bits, (s.x rs).getLsbD j = s.bit rs j := fun j _ => s.getLsbD_x rs j
  rw [getLsbD_ror ha _ hk, shamt, toNat_asmImm6_sub _ _ himm, Nat.mod_mod, Nat.add_mod_mod, Nat.add_sub_assoc himm.le]

end Sys2Proof.Machine
end

section
/-!
SUPPORT. The companion instructions of 49_base_isa_companion.md section 3: the sign-extended immediate, the operations as
numbers, and which instructions load.
-/
namespace Sys2Proof.Machine

/-! ## Immediates -/

/-- Both register widths hold a word. -/
theorem State.le_bits (s : State) : 32 ≤ s.xlen.bits := by
  cases s.xlen <;> decide

/-- The bits of a sign-extended 12-bit immediate. -/
theorem getLsbD_signExtend_imm12 {n k : Nat} (imm : BitVec 12) (hk : k < n) :
    (imm.signExtend n).getLsbD k = imm.getLsbD (min k 11) := by
  rw [BitVec.getLsbD_signExtend, decide_eq_true hk, Bool.true_and]
  split
  next hlow => rw [min_eq_left (by omega)]
  next hhigh => rw [BitVec.msb_eq_getLsbD_last, min_eq_right (by omega)]

/-- A sign-extended immediate is the same number. -/
theorem State.toInt_signExtend_imm12 (s : State) (imm : BitVec 12) :
    (imm.signExtend s.xlen.bits).toInt = imm.toInt :=
  BitVec.toInt_signExtend_of_le (le_trans (by decide) s.le_bits)

/-- A branch offset is twice its field (R389). -/
theorem signExtend_append_zero (n : Nat) (offset : BitVec 12) :
    (offset ++ 0#1).signExtend n = BitVec.ofInt n (2 * offset.toInt) := by
  rw [BitVec.signExtend, BitVec.toInt_append_zero, pow_one]

/-- The immediate of lui is the upper 20 bits of a word (R382). -/
theorem append_zero_eq_ofNat (imm20 : BitVec 20) : imm20 ++ 0#12 = BitVec.ofNat 32 (imm20.toNat * 4096) := by
  apply BitVec.eq_of_toNat_eq
  have hlt : imm20.toNat * 4096 < 2 ^ 32 := by omega
  rw [BitVec.toNat_append, BitVec.toNat_ofNat, BitVec.toNat_ofNat, Nat.mod_eq_of_lt hlt, Nat.shiftLeft_eq]
  exact Nat.or_zero _

/-! ## Arithmetic at full width (R380, R381, R385 to R387, R391) -/

section
variable {n : Nat} (a b : BitVec n)

theorem ofInt_sub_ofInt (y z : Int) : BitVec.ofInt n y - BitVec.ofInt n z = BitVec.ofInt n (y - z) := by
  rw [Int.sub_eq_add_neg, BitVec.ofInt_add, BitVec.ofInt_neg, BitVec.sub_eq_add_neg]

theorem sub_eq_ofInt : a - b = BitVec.ofInt n (a.toInt - b.toInt) := by
  rw [← ofInt_sub_ofInt, BitVec.ofInt_toInt, BitVec.ofInt_toInt]

theorem add_signExtend_eq_ofInt (imm : BitVec 12) : a + imm.signExtend n = BitVec.ofInt n (a.toInt + imm.toInt) := by
  rw [BitVec.ofInt_add, BitVec.ofInt_toInt]
  rfl

theorem ofInt_mul_toInt_eq_ofNat : BitVec.ofInt n (a.toInt * b.toInt) = BitVec.ofNat n (a.toNat * b.toNat) := by
  rw [BitVec.ofInt_mul, BitVec.ofInt_toInt, BitVec.ofInt_toInt]
  exact BitVec.mul_def

theorem ite_lessSigned_eq_ofNat :
    (if lessSigned a b then 1#n else 0#n) = BitVec.ofNat n (if a.toInt < b.toInt then 1 else 0) := by
  rw [apply_ite (BitVec.ofNat n)]
  simp only [lessSigned, decide_eq_true_eq]

theorem ite_lessUnsigned_eq_ofNat :
    (if lessUnsigned a b then 1#n else 0#n) = BitVec.ofNat n (if a.toNat < b.toNat then 1 else 0) := by
  rw [apply_ite (BitVec.ofNat n)]
  simp only [lessUnsigned, decide_eq_true_eq]

/-- The upper half of a signed product fits a signed word (R391). -/
theorem toInt_ofInt_mulh (hn : 2 ≤ n) :
    (BitVec.ofInt n (a.toInt * b.toInt / 2 ^ n)).toInt = a.toInt * b.toInt / 2 ^ n := by
  have hlow := BitVec.le_toInt_mul_toInt (x := a) (y := b)
  have hhigh := BitVec.toInt_mul_toInt_le (x := a) (y := b)
  have hsquare : (2 : Int) ^ (n * 2 - 2) = 2 ^ (n - 2) * 2 ^ n := by rw [← pow_add]; congr 1; omega
  have hhalf : (2 : Int) ^ (n - 1) = 2 * 2 ^ (n - 2) := by rw [← pow_succ']; congr 1; omega
  have hpos : (0 : Int) < 2 ^ (n - 2) := by positivity
  rw [hsquare] at hlow hhigh
  refine BitVec.toInt_ofInt_eq_self (by omega) ?_ ?_
  · have : -(2 ^ (n - 2)) ≤ a.toInt * b.toInt / 2 ^ n := (Int.le_ediv_iff_mul_le (by positivity)).mpr (by linarith)
    omega
  · have : a.toInt * b.toInt / 2 ^ n ≤ 2 ^ (n - 2) := Int.ediv_le_of_le_mul (by positivity) hhigh
    omega

end

/-! ## Word forms (R380, R381, R385, R393) -/

section
variable {s : State} {rd : Reg}

/-- A *W companion instruction ends with the sign extension of whatever its 32-bit result is shown to be. -/
theorem State.doneW_of_eq {v w : BitVec 32} (h : v = w) : s.doneW rd v = .next (s.retire rd (w.signExtend _)) :=
  State.done_of_eq (congrArg _ h)

/-- A *W companion instruction whose 32-bit result has the bits `f`. -/
theorem State.doneW_bitsOf {v : BitVec 32} {f : Nat → Bool} (h : ∀ k < 32, v.getLsbD k = f k) :
    s.doneW rd v = .next (s.retire rd ((bitsOf 32 f).signExtend _)) :=
  State.doneW_of_eq (eq_bitsOf h)

end

/-- The low word of a register, as a number modulo 2^32. -/
theorem State.ofNat_toNat_x (s : State) (r : Reg) : BitVec.ofNat 32 (s.x r).toNat = s.xw r :=
  BitVec.ofNat_toNat 32 _

/-- The amount of a 32-bit shift is read from the low word as from the register. -/
theorem State.shamt_32_xw (s : State) (r : Reg) : shamt 32 (s.xw r) = (s.x r).toNat % 32 := by
  rw [shamt, s.toNat_xw, Nat.mod_mod_of_dvd _ (by decide)]

/-- The low word of the sum of addi. -/
theorem State.lowWord_plusImm (s : State) (r : Reg) (imm : BitVec 12) :
    lowWord (s.plusImm r imm) = BitVec.ofInt 32 ((s.x r).toNat + imm.toInt) := by
  have himm : lowWord (imm.signExtend s.xlen.bits) = imm.signExtend 32 :=
    BitVec.eq_of_getLsbD_eq fun k hk => by
      rw [getLsbD_lowWord, decide_eq_true hk, Bool.true_and, getLsbD_signExtend_imm12 imm (hk.trans_le s.le_bits),
        getLsbD_signExtend_imm12 imm hk]
  rw [BitVec.ofInt_add, BitVec.ofInt_natCast, s.ofNat_toNat_x, State.plusImm, lowWord, BitVec.setWidth_add _ _ s.le_bits]
  exact congrArg (s.xw r + ·) himm

/-! ## Loads -/

/-- The seven companion loads are loads of 1, 2, 4 and 8 bytes. -/
theorem Companion.exec_of_mem_loads {rd rs1 : Reg} {imm : BitVec 12} {c : Companion} {n : Nat}
    (h : (c, n) ∈ [(Companion.lb rd rs1 imm, 1), (.lbu rd rs1 imm, 1), (.lh rd rs1 imm, 2), (.lhu rd rs1 imm, 2),
      (.lw rd rs1 imm, 4), (.lwu rd rs1 imm, 4), (.ld rd rs1 imm, 8)])
    (s : State) : ∃ f, c.exec s = s.load rd rs1 imm n f := by
  simp only [List.mem_cons, Prod.mk.injEq, List.not_mem_nil, or_false] at h
  rcases h with ⟨rfl, rfl⟩ | ⟨rfl, rfl⟩ | ⟨rfl, rfl⟩ | ⟨rfl, rfl⟩ | ⟨rfl, rfl⟩ | ⟨rfl, rfl⟩ |
    ⟨rfl, rfl⟩ <;> unfold Companion.exec <;> exact ⟨_, rfl⟩

end Sys2Proof.Machine
end

section
/-!
The statements of 49_base_isa_companion.md section 3: what the companion instructions compute and where they go.
-/
namespace Sys2Proof.Machine

/-- Settles O55: the word is that of the companion instruction, and clearing bit 0 leaves the other bits. -/
theorem companionReturn : Obligations.CompanionReturn := by
  intro s e
  obtain ⟨hdecode, hrow⟩ := Sys2Proof.companionDecodeOfEncode s.xlen e .ret
  have htarget : s.x 1 &&& ~~~1#_ = bitsOf s.xlen.bits fun k => k != 0 && s.bit 1 k := by
    refine eq_bitsOf fun k hk => ?_
    rw [BitVec.getLsbD_and, getLsbD_not_of_lt _ hk, BitVec.getLsbD_one, decide_eq_true (Nat.zero_lt_of_lt hk),
      Bool.true_and, s.getLsbD_x, Bool.and_comm]
    simp [bne, beq_eq_decide]
  exact ⟨hrow, hdecode nofun, congrArg (fun p => Host.Outcome.next (s.jump p)) htarget⟩

/-- Settles O56: every conditional branch is the shared branch operation, with its condition said of numbers. -/
theorem companionBranches : Obligations.CompanionBranches := by
  intro s rs1 rs2 offset c cond
  refine ⟨⟨rfl, rfl⟩, fun h => ?_⟩
  have hexec : c.exec s = s.branch cond offset := by
    simp only [List.mem_cons, Prod.mk.injEq, List.not_mem_nil, or_false] at h
    obtain ⟨rfl, rfl⟩ | ⟨rfl, rfl⟩ | ⟨rfl, rfl⟩ | ⟨rfl, rfl⟩ | ⟨rfl, rfl⟩ := h
    · simp only [Companion.exec, BitVec.toNat_inj]
    · simp only [Companion.exec, BitVec.toNat_inj, ne_eq]
    · rfl
    · simp only [Companion.exec, lessSigned, ← decide_not, not_lt, ge_iff_le]
    · rfl
  rw [hexec, State.branch_eq, signExtend_append_zero]
  rfl

/-- Settles O57: each operation on words is the operation on numbers, and the logical ones act on every bit by itself. -/
theorem companionArithmetic : Obligations.CompanionArithmetic := by
  intro s rd rs1 rs2 imm
  have hwidth : 2 ≤ s.xlen.bits := le_trans (by decide) s.le_bits
  refine ⟨State.done_of_eq (BitVec.add_def ..), State.done_of_eq (sub_eq_ofInt ..),
    State.done_of_eq (ite_lessSigned_eq_ofNat ..), State.done_of_eq (ite_lessUnsigned_eq_ofNat ..),
    State.done_of_eq ?slti, State.done_of_eq (ite_lessUnsigned_eq_ofNat ..),
    State.done_of_eq (add_signExtend_eq_ofInt ..), State.done_bitsOf fun k hk => ?andi,
    State.done_bitsOf fun k hk => ?ori, State.done_bitsOf fun k hk => ?xori,
    State.done_of_eq (ofInt_mul_toInt_eq_ofNat ..), ⟨_, rfl, toInt_ofInt_mulh _ _ hwidth⟩⟩
  case slti => rw [ite_lessSigned_eq_ofNat, s.toInt_signExtend_imm12]
  case andi => rw [BitVec.getLsbD_and, getLsbD_signExtend_imm12 imm hk, s.getLsbD_x]
  case ori => rw [BitVec.getLsbD_or, getLsbD_signExtend_imm12 imm hk, s.getLsbD_x]
  case xori => rw [BitVec.getLsbD_xor, getLsbD_signExtend_imm12 imm hk, s.getLsbD_x]

/-- Settles O58: the low words are the numbers modulo 2^32, and a shift of one has the bits of 49 R374 to R379 at 32. -/
theorem companionWordForms : Obligations.CompanionWordForms := by
  rintro s rd rs1 rs2 imm sh imm20 _ rfl
  have haw : ∀ k < 32, (s.xw rs1).getLsbD k = s.bit rs1 k := fun _ => s.getLsbD_xw rs1
  rw [← s.shamt_32_xw]
  refine ⟨State.doneW_of_eq (append_zero_eq_ofNat imm20), fun _ => ⟨State.doneW_of_eq ?addw, State.doneW_of_eq ?subw,
    State.doneW_of_eq (s.lowWord_plusImm rs1 imm),
    State.doneW_bitsOf fun _ => getLsbD_shiftLeft_of_bits haw _,
    State.doneW_bitsOf fun k _ => getLsbD_ushiftRight_of_bits haw _ k,
    State.doneW_bitsOf fun _ => getLsbD_sshiftRight_of_bits haw _,
    State.doneW_bitsOf fun _ => getLsbD_shiftLeft_of_bits haw _,
    State.doneW_bitsOf fun k _ => getLsbD_ushiftRight_of_bits haw _ k,
    State.doneW_bitsOf fun _ => getLsbD_sshiftRight_of_bits haw _⟩⟩
  case addw => rw [BitVec.ofNat_add, s.ofNat_toNat_x, s.ofNat_toNat_x]
  case subw =>
    rw [← ofInt_sub_ofInt, BitVec.ofInt_natCast, BitVec.ofInt_natCast, s.ofNat_toNat_x, s.ofNat_toNat_x]

end Sys2Proof.Machine
end

section
/-!
The statements of 60_exceptions.md: the faults of a fetch and of a companion load or store.
-/
namespace Sys2Proof.Machine

/-- Settles O11: the alignment is looked at first; then the first invalid address is the lowest, since the addresses of an
aligned word rise. -/
theorem fetchFaults : Obligations.FetchFaults := by
  refine ⟨fun s h => step_of_fault (State.fetch_misaligned h), ?_⟩
  intro s k hpc hk hinvalid hfirst
  refine step_of_fault (State.fetch_invalid hpc (Memory.lowestInvalid_eq_some.mpr ⟨⟨?inSpan, hinvalid⟩, ?lowest⟩))
  case inSpan => exact (State.mem_span_pc hpc).mpr ⟨k, hk, rfl⟩
  case lowest =>
    intro a ha hnone
    obtain ⟨j, -, rfl⟩ := (State.mem_span_pc hpc).mp ha
    refine Nat.add_le_add_left (Nat.le_of_not_lt fun hjk => ?_) _
    exact Option.isSome_iff_ne_none.mp (hfirst j hjk) hnone

/-- Settles O54: a load and a store look for the lowest invalid address of the access in the same way. -/
theorem companionAccessFaults : Obligations.CompanionAccessFaults := by
  intro s rd rs1 rs2 imm c n j addr hc _ haddr hj hinvalid hlowest
  have hlookup : Memory.lowestInvalid s.mem (s.span (s.plusImm rs1 imm) n) = some (addr j) :=
    Memory.lowestInvalid_eq_some.mpr
      ⟨⟨(State.mem_span haddr).mpr ⟨j, hj, rfl⟩, hinvalid⟩, (State.forall_mem_span haddr).mpr hlowest⟩
  rcases (List.mem_append (s := [_, _, _, _, _, _, _]) (t := [_, _, _, _])).mp hc with hload | hstore
  · obtain ⟨f, hexec⟩ := Companion.exec_of_mem_loads hload s
    exact hexec.trans (State.load_fault rd rs1 imm n f hlookup)
  · obtain ⟨hexec, -⟩ := Companion.exec_of_mem_stores hstore s
    exact hexec.trans (State.store_fault rs1 rs2 imm n hlookup)

end Sys2Proof.Machine
end
